-- ==== Sys2Proof/Word.lean ====
section
/-! DEFINITION. The bit-vector types of the block: bytes, 32-bit words and 4-bit caller ids (R9, R16, R85). -/

namespace Sys2Proof

/-- A byte (R9). -/
abbrev Byte := BitVec 8

/-- A 32-bit value: a CRC or an update counter (R16). -/
abbrev Word := BitVec 32

/-- A caller id as the request port carries it, 4 bits (R85). -/
abbrev Caller := BitVec 4

end Sys2Proof
end

