-- ==== Sys2Proof/Syntax.lean ====
section
/-! DEFINITION. The names the spec fixes (links, transports, opcode classes, record kinds, catalog commands), the
request port's tuple, and the one instruction type: a constructor per row of spec/opcode_table.json. -/

namespace Sys2Proof

/-- The link the channel runs on (R26, R88, R200). -/
inductive Link where
  | spi
  | usb
deriving DecidableEq, Repr, Inhabited

/-- The transport a transaction names (R88, R200). -/
inductive Transport where
  | spi
  | usbCtrl
  | usbStream
deriving DecidableEq, Repr, Inhabited

/-- The class of a protocol opcode (R71). -/
inductive OpClass where
  | write
  | rread
  | svread
deriving DecidableEq, Repr, Inhabited

/-- The eight telemetry kinds, in canonical order (R170). -/
inductive TKind where
  | sig
  | fib
  | subch
  | iq
  | spec
  | imp
  | tii
  | tick
deriving DecidableEq, Repr

/-- The nineteen record kinds, in the order of their ids (R87). -/
inductive Kind where
  | sig
  | fib
  | subch
  | iq
  | spec
  | imp
  | tii
  | tick
  | dab
  | tunerOpt
  | procOpt
  | tunerReg
  | serial
  | pwsConfig
  | pwsStatus
  | version
  | dfuMode
  | dfuBlock
  | dfuAck
deriving DecidableEq, Repr

/-- The twenty-five catalog commands, in the order of their catalog index (R130). -/
inductive Command where
  | setDabP
  | setDabV
  | setTunerOptP
  | setTunerOptV
  | setProcOptP
  | setProcOptV
  | setTunerReg
  | setSerial
  | setPwsConfig
  | setMask
  | setDfuMode
  | setDfuBlock
  | getDabP
  | getDabV
  | getTunerOptP
  | getTunerOptV
  | getProcOptP
  | getProcOptV
  | getSerial
  | getPwsStatus
  | getVersion
  | getDfuMode
  | getDfuAck
  | getMaskData
  | getPing
deriving DecidableEq, Repr

/-- A request at the request port (R85). -/
structure Request where
  caller : Caller
  opc : Byte
  a : Byte
  b : Byte
  d : List Byte
deriving DecidableEq, Repr

/-- Why a request spells no operation (R90). -/
inductive IllegalReason where
  | callerId
  | reservedOpc
  | kindId
  | telemetryKindId
  | linkId
  | transportId
  | fieldA
  | fieldB
  | bodyNotEmpty
deriving DecidableEq, Repr

/-- The instructions. The first eleven constructors are the request port's (R86, R90); the others are the protocol
opcodes, each with the fields its write-phase byte string carries after the opcode byte (R81). -/
inductive Instr where
  | crc32 (c : Caller) (d : List Byte)
  | encode (c : Caller) (k : Kind) (d : List Byte)
  | decode (c : Caller) (k : Kind) (d : List Byte)
  | classify (c : Caller) (op : Byte) (t : Transport)
  | tick (c : Caller) (k : TKind)
  | build (c : Caller) (m : Byte)
  | parse (c : Caller) (m : Byte) (d : List Byte)
  | openChannel (c : Caller) (l : Link)
  | closeChannel (c : Caller)
  | exec (c : Caller) (op : Byte) (t : Transport) (d : List Byte)
  | illegalRequest (why : IllegalReason) (r : Request)
  | setDabP (body : List Byte) (trailer : Word)
  | setDabV (body : List Byte) (trailer : Word)
  | setTunerOptP (body : List Byte) (trailer : Word)
  | setTunerOptV (body : List Byte) (trailer : Word)
  | setProcOptP (body : List Byte) (trailer : Word)
  | setProcOptV (body : List Byte) (trailer : Word)
  | setTunerReg (body : List Byte) (trailer : Word)
  | setSerial (body : List Byte) (trailer : Word)
  | setPwsConfig (body : List Byte) (trailer : Word)
  | setMask (m : Byte)
  | setDfuMode (body : List Byte) (trailer : Word)
  | setDfuBlock (body : List Byte) (trailer : Word)
  | getDabP
  | getDabV
  | getTunerOptP
  | getTunerOptV
  | getProcOptP
  | getProcOptV
  | getSerial
  | getPwsStatus
  | getVersion
  | getDfuMode
  | getDfuAck
  | getMaskData
  | getPing
  | unassignedProtocolOpcode (op : Byte) (req : List Byte)
deriving DecidableEq, Repr

/-- The two instruction spaces (R3): the request port's operations and the protocol opcodes. -/
inductive Space where
  | request
  | protocol
deriving DecidableEq, Repr

end Sys2Proof
end

