-- ==== Sys2Proof/Config.lean ====
section
/-! DEFINITION. The configuration of R7, its accessors, the test configuration TVCFG (95_test_vectors.md section 2),
and the free values: opaque constants for what RESET leaves unspecified (R270). -/

namespace Sys2Proof

/-- A set of transports (the value of a capability parameter, R130). -/
structure TransportSet where
  spi : Bool
  usbCtrl : Bool
  usbStream : Bool
deriving DecidableEq, Repr

/-- Membership in a set of transports (R133). -/
def TransportSet.has (s : TransportSet) : Transport → Bool
  | .spi => s.spi
  | .usbCtrl => s.usbCtrl
  | .usbStream => s.usbStream

/-- The parameters R7 and 93_implementation_defined.md (U1 to U6) leave to an instance. The parameters with a fixed
value (`CRC_POLY`, `CRC_INIT`, `CNT_RESET`, `PERSIST_SET`) are constants. -/
structure Config where
  /-- `SIZE[k]`, indexed by kind id. -/
  sizes : Vector Nat 19
  /-- `KIND_BIT[c]`, indexed by telemetry kind id. -/
  kindBits : Vector (Fin 8) 8
  /-- `OP_<name>`, indexed by catalog index. -/
  opcodes : Vector Byte 25
  /-- `CAP[<name>]`, indexed by catalog index. -/
  caps : Vector TransportSet 25
  /-- `N_CALLERS`. -/
  nCallers : Nat
  /-- `CRC_XOROUT`. -/
  crcXorOut : Word
deriving DecidableEq, Repr

/-- The kind id of R87, as an index. -/
def Kind.idx : Kind → Fin 19
  | .sig => 0
  | .fib => 1
  | .subch => 2
  | .iq => 3
  | .spec => 4
  | .imp => 5
  | .tii => 6
  | .tick => 7
  | .dab => 8
  | .tunerOpt => 9
  | .procOpt => 10
  | .tunerReg => 11
  | .serial => 12
  | .pwsConfig => 13
  | .pwsStatus => 14
  | .version => 15
  | .dfuMode => 16
  | .dfuBlock => 17
  | .dfuAck => 18

/-- The telemetry kind id of R170, as an index. -/
def TKind.idx : TKind → Fin 8
  | .sig => 0
  | .fib => 1
  | .subch => 2
  | .iq => 3
  | .spec => 4
  | .imp => 5
  | .tii => 6
  | .tick => 7

/-- The catalog index of R130. -/
def Command.idx : Command → Fin 25
  | .setDabP => 0
  | .setDabV => 1
  | .setTunerOptP => 2
  | .setTunerOptV => 3
  | .setProcOptP => 4
  | .setProcOptV => 5
  | .setTunerReg => 6
  | .setSerial => 7
  | .setPwsConfig => 8
  | .setMask => 9
  | .setDfuMode => 10
  | .setDfuBlock => 11
  | .getDabP => 12
  | .getDabV => 13
  | .getTunerOptP => 14
  | .getTunerOptV => 15
  | .getProcOptP => 16
  | .getProcOptV => 17
  | .getSerial => 18
  | .getPwsStatus => 19
  | .getVersion => 20
  | .getDfuMode => 21
  | .getDfuAck => 22
  | .getMaskData => 23
  | .getPing => 24

namespace Config

/-- `CFG.SIZE[k]` (R7). -/
def size (cfg : Config) (k : Kind) : Nat := cfg.sizes[k.idx]

/-- `CFG.KIND_BIT[c]` (R7, R171). -/
def kindBit (cfg : Config) (c : TKind) : Fin 8 := cfg.kindBits[c.idx]

/-- `CFG.OP_<name>` (R7, R130). -/
def op (cfg : Config) (cmd : Command) : Byte := cfg.opcodes[cmd.idx]

/-- `CFG.CAP[<name>]` (R7, R133). -/
def cap (cfg : Config) (cmd : Command) : TransportSet := cfg.caps[cmd.idx]

/-- `CRC_POLY` (R7, R100). -/
def crcPoly : Word := 0x04C11DB7#32

/-- `CRC_INIT` (R7, R100). -/
def crcInit : Word := 0xFFFFFFFF#32

/-- `CNT_RESET` (R7, R23). -/
def cntReset : Word := 0#32

/-- `PERSIST_SET` (R7, D35). -/
def persistSet : List Command := [.setDabP, .setTunerOptP, .setProcOptP]

/-- All three transports, the default capability of R130. -/
def allThree : TransportSet := ⟨true, true, true⟩

/-- The control channel only, the capability of the DFU commands (R130, R138). -/
def ctrlOnly : TransportSet := ⟨false, true, false⟩

/-- The streaming endpoint only, the capability of SET_MASK (R130, R148). -/
def streamOnly : TransportSet := ⟨false, false, true⟩

/-- The test configuration TVCFG (95_test_vectors.md section 2). DESIGN CHOICE (log 4): the configuration of
`State.reset`; unsafe for a claim about one device, since R7 leaves these values OPEN. -/
def tvcfg : Config where
  sizes := #v[12, 11, 14, 13, 11, 10, 10, 9, 8, 6, 6, 7, 12, 8, 5, 8, 5, 16, 8]
  kindBits := #v[6, 2, 5, 1, 7, 3, 4, 0]
  opcodes := #v[0x01#8, 0x11#8, 0x02#8, 0x12#8, 0x03#8, 0x13#8, 0x20#8, 0x21#8, 0x22#8, 0x30#8, 0x40#8, 0x41#8,
    0x81#8, 0x91#8, 0x82#8, 0x92#8, 0x83#8, 0x93#8, 0xA1#8, 0xA2#8, 0xA3#8, 0xB0#8, 0xB1#8, 0xC0#8, 0xC1#8]
  caps := #v[allThree, allThree, allThree, allThree, allThree, allThree, allThree, allThree, allThree, streamOnly,
    ctrlOnly, ctrlOnly, allThree, allThree, allThree, allThree, allThree, allThree, allThree, allThree, allThree,
    ctrlOnly, ctrlOnly, allThree, allThree]
  nCallers := 2
  crcXorOut := 0x00000000#32

/-- Free value (log 10): the link RESET leaves in `S.CH_LINK` (R270). -/
opaque resetLink : Nat → Link

/-- Free value (log 10): the word RESET leaves in `S.CRC_ACC` (R270). -/
opaque resetCrcAcc : Nat → Word

/-- Free values (log 10): what RESET leaves in the fields of `S.SEQ_CTX` (R28, R270). -/
opaque resetOwner : Nat → Caller
/-- See `resetOwner`. -/
opaque resetTransport : Nat → Transport
/-- See `resetOwner`. -/
opaque resetOp : Nat → Byte
/-- See `resetOwner`. -/
opaque resetClass : Nat → OpClass
/-- See `resetOwner`. -/
opaque resetTx : Nat → List Byte
/-- See `resetOwner`. -/
opaque resetN : Nat → Nat
/-- See `resetOwner`. -/
opaque resetMask : Nat → Byte

end Config

end Sys2Proof
end

