-- ==== Sys2Proof/Machine/Bytes.lean ====
section
/-! DEFINITION. Byte strings (R9, R11), the little-endian 32-bit accesses (R9, R57) and the CRC-32 function
(R100, R101). -/

namespace Sys2Proof.Machine

/-- `zeros(n)` (R9). -/
def zeros (n : Nat) : List Byte := List.replicate n 0#8

/-- `B[i]` (R9); every use has `i < |B|`. -/
def byteAt (b : List Byte) (i : Nat) : Byte := b.getD i 0#8

/-- `MemRead(B, o, n) = B[o..o+n)` (R11). -/
def memRead (b : List Byte) (o n : Nat) : List Byte := (b.drop o).take n

/-- `le32(B, o)` (R9). -/
def le32 (b : List Byte) (o : Nat) : Word :=
  (byteAt b o).zeroExtend 32 ||| ((byteAt b (o + 1)).zeroExtend 32 <<< 8)
    ||| ((byteAt b (o + 2)).zeroExtend 32 <<< 16) ||| ((byteAt b (o + 3)).zeroExtend 32 <<< 24)

/-- `le32bytes(v)` (R9). -/
def le32bytes (v : Word) : List Byte :=
  [v.extractLsb' 0 8, v.extractLsb' 8 8, v.extractLsb' 16 8, v.extractLsb' 24 8]

/-- One shift of the CRC register: the body of "repeat 8 times" in R101. -/
def crcShift (acc : Word) : Word :=
  if acc.getLsbD 31 then (acc <<< 1) ^^^ Config.crcPoly else acc <<< 1

/-- `n` shifts of the CRC register (R101). -/
def crcShifts : Nat → Word → Word
  | 0, acc => acc
  | n + 1, acc => crcShifts n (crcShift acc)

/-- One byte into the CRC register: it enters at bits [31:24], then eight shifts (R101). -/
def crcByte (acc : Word) (b : Byte) : Word :=
  crcShifts 8 (acc ^^^ (b.zeroExtend 32 <<< 24))

/-- The value R101 leaves in `S.CRC_ACC` after a whole byte string, byte 0 first. -/
def crcReg (b : List Byte) : Word := b.foldl crcByte Config.crcInit

/-- `CRC32(B)` (R12, R101). -/
def crc32 (cfg : Config) (b : List Byte) : Word := crcReg b ^^^ cfg.crcXorOut

end Sys2Proof.Machine
end

