-- ==== Sys2Proof/Machine/Catalog.lean ====
section
/-! DEFINITION. Ids of kinds, transports and links (R87, R88), the opcode class (R71), the command catalog (R130) and
the functions the sequencer and CLASSIFY ask of it (R131 to R133), masks and composite lengths (R77, R177). -/

namespace Sys2Proof

/-- The telemetry kinds in canonical order (R170). -/
def TKind.all : List TKind := [.sig, .fib, .subch, .iq, .spec, .imp, .tii, .tick]

/-- The record kinds in the order of their ids (R87). -/
def Kind.all : List Kind :=
  [.sig, .fib, .subch, .iq, .spec, .imp, .tii, .tick, .dab, .tunerOpt, .procOpt, .tunerReg, .serial, .pwsConfig,
    .pwsStatus, .version, .dfuMode, .dfuBlock, .dfuAck]

/-- The catalog commands in the order of their index (R130). -/
def Command.all : List Command :=
  [.setDabP, .setDabV, .setTunerOptP, .setTunerOptV, .setProcOptP, .setProcOptV, .setTunerReg, .setSerial,
    .setPwsConfig, .setMask, .setDfuMode, .setDfuBlock, .getDabP, .getDabV, .getTunerOptP, .getTunerOptV,
    .getProcOptP, .getProcOptV, .getSerial, .getPwsStatus, .getVersion, .getDfuMode, .getDfuAck, .getMaskData,
    .getPing]

/-- The record kind a telemetry kind is: ids 0..7 are the canonical indices (R87). -/
def TKind.toKind : TKind → Kind
  | .sig => .sig
  | .fib => .fib
  | .subch => .subch
  | .iq => .iq
  | .spec => .spec
  | .imp => .imp
  | .tii => .tii
  | .tick => .tick

/-- The telemetry kinds are the ids 0..7 (R87). -/
def Kind.isTelemetry (k : Kind) : Bool := k.idx.val < 8

/-- The record kind of an id byte, none for 19..255 (R87). -/
def Kind.ofId (b : Byte) : Option Kind := Kind.all[b.toNat]?

/-- The id byte of a record kind (R87). -/
def Kind.id (k : Kind) : Byte := BitVec.ofNat 8 k.idx.val

/-- The telemetry kind of an id byte, none for 8..255 (R86, R170). -/
def TKind.ofId (b : Byte) : Option TKind := TKind.all[b.toNat]?

/-- The id byte of a telemetry kind (R170). -/
def TKind.id (c : TKind) : Byte := BitVec.ofNat 8 c.idx.val

/-- The transport of an id byte, none for 3 and above (R86, R88). -/
def Transport.ofId (b : Byte) : Option Transport :=
  if b = 0#8 then some .spi else if b = 1#8 then some .usbCtrl else if b = 2#8 then some .usbStream else none

/-- The transport id of R88. -/
def Transport.id : Transport → Byte
  | .spi => 0#8
  | .usbCtrl => 1#8
  | .usbStream => 2#8

/-- `link(t)` (R88, R200). -/
def Transport.link : Transport → Link
  | .spi => .spi
  | .usbCtrl => .usb
  | .usbStream => .usb

/-- The link of an id byte, none for 2..255 (R88). -/
def Link.ofId (b : Byte) : Option Link :=
  if b = 0#8 then some .spi else if b = 1#8 then some .usb else none

/-- The link id of R88. -/
def Link.id : Link → Byte
  | .spi => 0#8
  | .usb => 1#8

/-- The class code of R71. -/
def OpClass.code : OpClass → BitVec 2
  | .write => 0#2
  | .rread => 2#2
  | .svread => 3#2

/-- What a command's request holds after the opcode (R130, R131). -/
inductive ReqContent where
  | none
  | rawMask
  | record (k : Kind)
deriving DecidableEq, Repr

/-- What a command's response holds (R130, R131). -/
inductive RespContent where
  | none
  | byte
  | composite
  | record (k : Kind)
deriving DecidableEq, Repr

/-- The class column of R130. -/
def Command.cls : Command → OpClass
  | .setDabP | .setDabV | .setTunerOptP | .setTunerOptV | .setProcOptP | .setProcOptV | .setTunerReg | .setSerial
  | .setPwsConfig | .setMask | .setDfuMode | .setDfuBlock => .write
  | .getDabP | .getDabV | .getTunerOptP | .getTunerOptV | .getProcOptP | .getProcOptV | .getSerial | .getPwsStatus
  | .getVersion | .getDfuMode | .getDfuAck => .rread
  | .getMaskData | .getPing => .svread

/-- The request column of R130: `REQ_KIND` of R131. -/
def Command.req : Command → ReqContent
  | .setDabP | .setDabV => .record .dab
  | .setTunerOptP | .setTunerOptV => .record .tunerOpt
  | .setProcOptP | .setProcOptV => .record .procOpt
  | .setTunerReg => .record .tunerReg
  | .setSerial => .record .serial
  | .setPwsConfig => .record .pwsConfig
  | .setMask => .rawMask
  | .setDfuMode => .record .dfuMode
  | .setDfuBlock => .record .dfuBlock
  | .getDabP | .getDabV | .getTunerOptP | .getTunerOptV | .getProcOptP | .getProcOptV | .getSerial | .getPwsStatus
  | .getVersion | .getDfuMode | .getDfuAck | .getMaskData | .getPing => .none

/-- The response column of R130: `RESP_KIND` of R131. -/
def Command.resp : Command → RespContent
  | .setDabP | .setDabV | .setTunerOptP | .setTunerOptV | .setProcOptP | .setProcOptV | .setTunerReg | .setSerial
  | .setPwsConfig | .setMask | .setDfuMode | .setDfuBlock => .none
  | .getDabP | .getDabV => .record .dab
  | .getTunerOptP | .getTunerOptV => .record .tunerOpt
  | .getProcOptP | .getProcOptV => .record .procOpt
  | .getSerial => .record .serial
  | .getPwsStatus => .record .pwsStatus
  | .getVersion => .record .version
  | .getDfuMode => .record .dfuMode
  | .getDfuAck => .record .dfuAck
  | .getMaskData => .composite
  | .getPing => .byte

namespace Machine

/-- `class(op)`, total on all 256 values (R71). -/
def opClass (op : Byte) : OpClass :=
  if op.getLsbD 7 then (if op.getLsbD 6 then .svread else .rread) else .write

/-- `entry(op)` (R131). -/
def entry (cfg : Config) (op : Byte) : Option Command :=
  Command.all.find? fun cmd => cfg.op cmd == op

/-- `enabled(m, c)` (R77). -/
def enabled (cfg : Config) (m : Byte) (c : TKind) : Bool := m.getLsbD (cfg.kindBit c).val

/-- The sum of the sizes of the enabled kinds of a list (R177). -/
def lenFrom (cfg : Config) (m : Byte) : List TKind → Nat
  | [] => 0
  | c :: cs => (if enabled cfg m c then cfg.size c.toKind else 0) + lenFrom cfg m cs

/-- `L(m)` (R177). -/
def compositeLen (cfg : Config) (m : Byte) : Nat := lenFrom cfg m TKind.all

/-- The payloads at the sample port before the sample source presents any, in canonical order: of the length
`SIZE[c] - 9` that `Src(c)` always has (R14, R175). DESIGN CHOICE, unsafe: every byte is zero (log 6). -/
def initialPayloads (cfg : Config) : Vector (List Byte) 8 :=
  #v[zeros (cfg.size .sig - 9), zeros (cfg.size .fib - 9), zeros (cfg.size .subch - 9), zeros (cfg.size .iq - 9),
    zeros (cfg.size .spec - 9), zeros (cfg.size .imp - 9), zeros (cfg.size .tii - 9), zeros (cfg.size .tick - 9)]

/-- The length of a command's request after the opcode byte (R83). -/
def reqLen (cfg : Config) (cmd : Command) : Nat :=
  match cmd.req with
  | .none => 0
  | .rawMask => 1
  | .record k => cfg.size k

/-- The length of the body `D` an EXEC of the command takes: `need` of R204. -/
def bodyLen (cfg : Config) (cmd : Command) : Nat :=
  match cmd.req with
  | .none => 0
  | .rawMask => 1
  | .record k => cfg.size k - 4

/-- `SIZE[RESP_KIND(op)]` for a record response. For the other contents R132 never asks it. -/
def respRecordLen (cfg : Config) (cmd : Command) : Nat :=
  match cmd.resp with
  | .record k => cfg.size k
  | .none | .byte | .composite => 0

/-- `resp_len(op, mask)` (R132). For a record-read opcode of no entry the length is never asked (R132); the model
answers 0 there (log 19). -/
def respLen (cfg : Config) (op mask : Byte) : Nat :=
  match opClass op with
  | .write => 0
  | .rread => match entry cfg op with
    | some cmd => respRecordLen cfg cmd
    | none => 0
  | .svread => if op = cfg.op .getMaskData then compositeLen cfg mask else 1

/-- `permitted(op, t)` (R133). -/
def permitted (cfg : Config) (op : Byte) (t : Transport) : Bool :=
  match entry cfg op with
  | some cmd => (cfg.cap cmd).has t
  | none => false

/-- `reqk` of CLASSIFY's result (R137). -/
def reqCode : ReqContent → Byte
  | .none => 0xFF#8
  | .rawMask => 0xFE#8
  | .record k => k.id

/-- `respk` of CLASSIFY's result (R137). -/
def respCode : RespContent → Byte
  | .none => 0xFF#8
  | .byte => 0xFE#8
  | .composite => 0xFD#8
  | .record k => k.id

end Machine

end Sys2Proof
end

