-- ==== Sys2Proof/Machine/Requests.lean ====
section
/-! DEFINITION. The request port's operand forms (R86): for each operation selector, what the fields A, B and D must
be, and which requests are illegal (R90). -/

namespace Sys2Proof.Machine

/-- The ten operations of the request port (R86). -/
inductive OpSel where
  | crc32
  | encode
  | decode
  | classify
  | tick
  | build
  | parse
  | openChannel
  | closeChannel
  | exec
deriving DecidableEq, Repr

/-- The operations in the order of their selector, from 0x01 (R86). -/
def OpSel.all : List OpSel :=
  [.crc32, .encode, .decode, .classify, .tick, .build, .parse, .openChannel, .closeChannel, .exec]

/-- The operation of a selector byte, none for 0x00 and 0x0B-0xFF (R86, R90). -/
def OpSel.ofOpc (b : Byte) : Option OpSel :=
  if b = 0#8 then none else OpSel.all[b.toNat - 1]?

/-- The selector byte OPC of an operation (R86). -/
def OpSel.opc : OpSel → Byte
  | .crc32 => 0x01#8
  | .encode => 0x02#8
  | .decode => 0x03#8
  | .classify => 0x04#8
  | .tick => 0x05#8
  | .build => 0x06#8
  | .parse => 0x07#8
  | .openChannel => 0x08#8
  | .closeChannel => 0x09#8
  | .exec => 0x0A#8

/-- What is wrong with the field A of an operation's request (R86, R90): none if nothing is. -/
def faultA (o : OpSel) (a : Byte) : Option IllegalReason :=
  match o with
  | .crc32 | .closeChannel => if a = 0#8 then none else some .fieldA
  | .encode | .decode => if (Kind.ofId a).isSome then none else some .kindId
  | .tick => if (TKind.ofId a).isSome then none else some .telemetryKindId
  | .openChannel => if (Link.ofId a).isSome then none else some .linkId
  | .classify | .exec | .build | .parse => none

/-- What is wrong with the field B (R86, R90): a transport id 0..2 with bits 7..2 zero for CLASSIFY and EXEC, zero for
the others. -/
def faultB (o : OpSel) (b : Byte) : Option IllegalReason :=
  match o with
  | .classify | .exec =>
    if b.extractLsb' 2 6 ≠ 0#6 then some .fieldB
    else if (Transport.ofId b).isSome then none else some .transportId
  | .crc32 | .encode | .decode | .tick | .build | .parse | .openChannel | .closeChannel =>
    if b = 0#8 then none else some .fieldB

/-- What is wrong with the field D (R86, R90). -/
def faultD (o : OpSel) (d : List Byte) : Option IllegalReason :=
  match o with
  | .classify | .tick | .build | .openChannel | .closeChannel => if d = [] then none else some .bodyNotEmpty
  | .crc32 | .encode | .decode | .parse | .exec => none

/-- The caller of a request is one of the block's callers (R85). -/
def callerOk (cfg : Config) (c : Caller) : Bool := c.toNat < cfg.nCallers

/-- Why a request is illegal, none if it spells an operation (R90). Where several reasons apply the model names the
first in the order caller, OPC, A, B, D; no rule observes which. -/
def requestFault (cfg : Config) (r : Request) : Option IllegalReason :=
  if callerOk cfg r.caller then
    match OpSel.ofOpc r.opc with
    | none => some .reservedOpc
    | some o => (faultA o r.a).or ((faultB o r.b).or (faultD o r.d))
  else some .callerId

end Sys2Proof.Machine
end

