-- ==== Sys2Proof/WellFormed.lean ====
section
/-! DEFINITION. Well-formed configurations, WF1 to WF8 of R8, and well-formed instructions under a configuration. -/

namespace Sys2Proof

namespace Config

/-- WF1 (R8). -/
def wf1 (cfg : Config) : Bool := Kind.all.all fun k => decide (4 ≤ cfg.size k)

/-- WF2 (R8). -/
def wf2 (cfg : Config) : Bool := TKind.all.all fun c => decide (9 ≤ cfg.size c.toKind)

/-- WF3 (R8): `KIND_BIT` is injective. -/
def wf3 (cfg : Config) : Bool := decide (cfg.kindBits.toList.Nodup)

/-- WF4 (R8): the opcodes are pairwise distinct. -/
def wf4 (cfg : Config) : Bool := decide (cfg.opcodes.toList.Nodup)

/-- WF5 (R8, R136): each opcode lies in its command's class. -/
def wf5 (cfg : Config) : Bool := Command.all.all fun cmd => Machine.opClass (cfg.op cmd) == cmd.cls

/-- Insert into an ascending list. -/
def insertAscending (x : Nat) : List Nat → List Nat
  | [] => [x]
  | y :: ys => if x ≤ y then x :: y :: ys else y :: insertAscending x ys

/-- The values in ascending order (R135). -/
def sortAscending : List Nat → List Nat
  | [] => []
  | x :: xs => insertAscending x (sortAscending xs)

/-- Each value is one more than the one before it (R135). -/
def consecutive : List Nat → Bool
  | [] => true
  | [_] => true
  | x :: y :: ys => y == x + 1 && consecutive (y :: ys)

/-- WF6 (R8, R135): the values of `PERSIST_SET` form one contiguous ascending block. -/
def wf6 (cfg : Config) : Bool :=
  consecutive (sortAscending (persistSet.map fun cmd => (cfg.op cmd).toNat))

/-- The four DFU commands (R138). -/
def dfuCommands : List Command := [.setDfuMode, .setDfuBlock, .getDfuMode, .getDfuAck]

/-- WF7 (R8): SET_MASK only on USB_STREAM, the DFU commands at most on USB_CTRL. -/
def wf7 (cfg : Config) : Bool :=
  cfg.cap .setMask == streamOnly
    && dfuCommands.all fun cmd => !(cfg.cap cmd).spi && !(cfg.cap cmd).usbStream

/-- WF8 (R8). -/
def wf8 (cfg : Config) : Bool := decide (1 ≤ cfg.nCallers) && decide (cfg.nCallers ≤ 16)

/-- A well-formed configuration (R8). -/
def wf (cfg : Config) : Bool :=
  cfg.wf1 && cfg.wf2 && cfg.wf3 && cfg.wf4 && cfg.wf5 && cfg.wf6 && cfg.wf7 && cfg.wf8

end Config

namespace Machine

/-- The fields of a write-phase record: a body of `SIZE[k] - 4` bytes and its own checksum (R73, R81). -/
def recordOk (cfg : Config) (k : Kind) (body : List Byte) (trailer : Word) : Bool :=
  body.length + 4 == cfg.size k && trailer == crc32 cfg body

end Machine

/-- A well-formed instruction: a request-port operation from one of the block's callers (R85), an illegal request
named by its own reason (R90), a write-phase record of its kind with its checksum (R81), or an opcode no catalog entry
takes (R91). -/
def Instr.wf (cfg : Config) : Instr → Bool
  | .crc32 c _ => Machine.callerOk cfg c
  | .encode c _ _ => Machine.callerOk cfg c
  | .decode c _ _ => Machine.callerOk cfg c
  | .classify c _ _ => Machine.callerOk cfg c
  | .tick c _ => Machine.callerOk cfg c
  | .build c _ => Machine.callerOk cfg c
  | .parse c _ _ => Machine.callerOk cfg c
  | .openChannel c _ => Machine.callerOk cfg c
  | .closeChannel c => Machine.callerOk cfg c
  | .exec c _ _ _ => Machine.callerOk cfg c
  | .illegalRequest why r => Machine.requestFault cfg r == some why
  | .setDabP body trailer => Machine.recordOk cfg .dab body trailer
  | .setDabV body trailer => Machine.recordOk cfg .dab body trailer
  | .setTunerOptP body trailer => Machine.recordOk cfg .tunerOpt body trailer
  | .setTunerOptV body trailer => Machine.recordOk cfg .tunerOpt body trailer
  | .setProcOptP body trailer => Machine.recordOk cfg .procOpt body trailer
  | .setProcOptV body trailer => Machine.recordOk cfg .procOpt body trailer
  | .setTunerReg body trailer => Machine.recordOk cfg .tunerReg body trailer
  | .setSerial body trailer => Machine.recordOk cfg .serial body trailer
  | .setPwsConfig body trailer => Machine.recordOk cfg .pwsConfig body trailer
  | .setMask _ => true
  | .setDfuMode body trailer => Machine.recordOk cfg .dfuMode body trailer
  | .setDfuBlock body trailer => Machine.recordOk cfg .dfuBlock body trailer
  | .getDabP => true
  | .getDabV => true
  | .getTunerOptP => true
  | .getTunerOptV => true
  | .getProcOptP => true
  | .getProcOptV => true
  | .getSerial => true
  | .getPwsStatus => true
  | .getVersion => true
  | .getDfuMode => true
  | .getDfuAck => true
  | .getMaskData => true
  | .getPing => true
  | .unassignedProtocolOpcode op _ => Machine.entry cfg op == none

end Sys2Proof
end

