-- ==== Sys2Proof/Decode.lean ====
section
/-! DEFINITION. The decoder of the two instruction spaces (R3), the encoder, and the reading of a word of
spec/opcode_table.json. A request is laid out as the bytes OPC, A, B, caller, then D (log 1; the spec fixes the tuple
of R85, not a byte layout); a protocol instruction is its transaction's write-phase byte string (R81). -/

namespace Sys2Proof

/-- Why bytes are no instruction. -/
inductive DecodeError where
  /-- Fewer than the four bytes OPC, A, B, caller. -/
  | shortRequest
  /-- Bits 7..4 of the caller byte are not zero: the field has four bits (R85). -/
  | callerField
  /-- A write-phase byte string has at least the opcode byte (R81). -/
  | emptyStream
  /-- The bytes after the opcode are not as many as the opcode implies (R83). -/
  | requestLength (expected actual : Nat)
deriving DecidableEq, Repr

namespace Machine

/-- The instruction a legal request spells (R86). A request whose fields are illegal stays an illegal request. -/
def decodeFields (o : OpSel) (r : Request) : Instr :=
  match o with
  | .crc32 => .crc32 r.caller r.d
  | .encode => match Kind.ofId r.a with
    | some k => .encode r.caller k r.d
    | none => .illegalRequest .kindId r
  | .decode => match Kind.ofId r.a with
    | some k => .decode r.caller k r.d
    | none => .illegalRequest .kindId r
  | .classify => match Transport.ofId r.b with
    | some t => .classify r.caller r.a t
    | none => .illegalRequest .transportId r
  | .tick => match TKind.ofId r.a with
    | some k => .tick r.caller k
    | none => .illegalRequest .telemetryKindId r
  | .build => .build r.caller r.a
  | .parse => .parse r.caller r.a r.d
  | .openChannel => match Link.ofId r.a with
    | some l => .openChannel r.caller l
    | none => .illegalRequest .linkId r
  | .closeChannel => .closeChannel r.caller
  | .exec => match Transport.ofId r.b with
    | some t => .exec r.caller r.a t r.d
    | none => .illegalRequest .transportId r

/-- The instruction of a request at the request port, total on every request (R86, R90). -/
def decodeRequest (cfg : Config) (r : Request) : Instr :=
  match requestFault cfg r with
  | some why => .illegalRequest why r
  | none => match OpSel.ofOpc r.opc with
    | some o => decodeFields o r
    | none => .illegalRequest .reservedOpc r

/-- The request of the bytes OPC, A, B, caller, D (log 1). -/
def requestOfBytes : List Byte → Except DecodeError Request
  | opc :: a :: b :: c :: d =>
    if c.extractLsb' 4 4 = 0#4 then .ok ⟨c.extractLsb' 0 4, opc, a, b, d⟩ else .error .callerField
  | _ => .error .shortRequest

/-- The bytes of a request (log 1). -/
def bytesOfRequest (r : Request) : List Byte :=
  r.opc :: r.a :: r.b :: r.caller.zeroExtend 8 :: r.d

/-- The body and the trailer of a record of kind `k` (R73, R74), if the bytes are `SIZE[k]` many. -/
def splitRecord (cfg : Config) (k : Kind) (req : List Byte) : Except DecodeError (List Byte × Word) :=
  if req.length = cfg.size k then
    .ok (memRead req 0 (cfg.size k - 4), le32 req (cfg.size k - 4))
  else .error (.requestLength (cfg.size k) req.length)

/-- A write command's instruction from its request record (R81). -/
def recordInstr (cfg : Config) (k : Kind) (req : List Byte) (mk : List Byte → Word → Instr) :
    Except DecodeError Instr :=
  match splitRecord cfg k req with
  | .ok (body, trailer) => .ok (mk body trailer)
  | .error e => .error e

/-- SET_MASK's instruction from its raw mask byte (R80). -/
def maskInstr (req : List Byte) : Except DecodeError Instr :=
  match req with
  | [m] => .ok (.setMask m)
  | _ => .error (.requestLength 1 req.length)

/-- A read command's instruction: nothing follows the opcode (R81). -/
def readInstr (req : List Byte) (i : Instr) : Except DecodeError Instr :=
  match req with
  | [] => .ok i
  | _ :: _ => .error (.requestLength 0 req.length)

/-- The instruction of a catalog command with the bytes after its opcode (R81, R83). -/
def commandInstr (cfg : Config) (cmd : Command) (req : List Byte) : Except DecodeError Instr :=
  match cmd with
  | .setDabP => recordInstr cfg .dab req .setDabP
  | .setDabV => recordInstr cfg .dab req .setDabV
  | .setTunerOptP => recordInstr cfg .tunerOpt req .setTunerOptP
  | .setTunerOptV => recordInstr cfg .tunerOpt req .setTunerOptV
  | .setProcOptP => recordInstr cfg .procOpt req .setProcOptP
  | .setProcOptV => recordInstr cfg .procOpt req .setProcOptV
  | .setTunerReg => recordInstr cfg .tunerReg req .setTunerReg
  | .setSerial => recordInstr cfg .serial req .setSerial
  | .setPwsConfig => recordInstr cfg .pwsConfig req .setPwsConfig
  | .setMask => maskInstr req
  | .setDfuMode => recordInstr cfg .dfuMode req .setDfuMode
  | .setDfuBlock => recordInstr cfg .dfuBlock req .setDfuBlock
  | .getDabP => readInstr req .getDabP
  | .getDabV => readInstr req .getDabV
  | .getTunerOptP => readInstr req .getTunerOptP
  | .getTunerOptV => readInstr req .getTunerOptV
  | .getProcOptP => readInstr req .getProcOptP
  | .getProcOptV => readInstr req .getProcOptV
  | .getSerial => readInstr req .getSerial
  | .getPwsStatus => readInstr req .getPwsStatus
  | .getVersion => readInstr req .getVersion
  | .getDfuMode => readInstr req .getDfuMode
  | .getDfuAck => readInstr req .getDfuAck
  | .getMaskData => readInstr req .getMaskData
  | .getPing => readInstr req .getPing

/-- The instruction of a write-phase byte string, total on any bytes: the opcode byte is looked up by equality with
the configured values (R72, R131); an opcode of no entry is the unassigned opcode (R91). -/
def decodeWire (cfg : Config) : List Byte → Except DecodeError Instr
  | [] => .error .emptyStream
  | op :: req =>
    match entry cfg op with
    | some cmd => commandInstr cfg cmd req
    | none => .ok (.unassignedProtocolOpcode op req)

/-- The decoder: total on any bytes of either space. -/
def decodeBytes (cfg : Config) (sp : Space) (bs : List Byte) : Except DecodeError Instr :=
  match sp with
  | .request => match requestOfBytes bs with
    | .ok r => .ok (decodeRequest cfg r)
    | .error e => .error e
  | .protocol => decodeWire cfg bs

/-- A write command's write-phase byte string `[OP] ++ body ++ le32bytes(trailer)` (R81). -/
def wireRecord (cfg : Config) (cmd : Command) (body : List Byte) (trailer : Word) : List Byte :=
  cfg.op cmd :: (body ++ le32bytes trailer)

end Machine

/-- The space an instruction belongs to (R3). -/
def Instr.space : Instr → Space
  | .crc32 _ _ | .encode _ _ _ | .decode _ _ _ | .classify _ _ _ | .tick _ _ | .build _ _ | .parse _ _ _
  | .openChannel _ _ | .closeChannel _ | .exec _ _ _ _ | .illegalRequest _ _ => .request
  | .setDabP _ _ | .setDabV _ _ | .setTunerOptP _ _ | .setTunerOptV _ _ | .setProcOptP _ _ | .setProcOptV _ _
  | .setTunerReg _ _ | .setSerial _ _ | .setPwsConfig _ _ | .setMask _ | .setDfuMode _ _ | .setDfuBlock _ _
  | .getDabP | .getDabV | .getTunerOptP | .getTunerOptV | .getProcOptP | .getProcOptV | .getSerial | .getPwsStatus
  | .getVersion | .getDfuMode | .getDfuAck | .getMaskData | .getPing
  | .unassignedProtocolOpcode _ _ => .protocol

namespace Machine

/-- The request of an operation with its fields (R86). -/
def requestOf (o : OpSel) (c : Caller) (a b : Byte) (d : List Byte) : Request := ⟨c, o.opc, a, b, d⟩

/-- The bytes of an instruction: the request's (log 1), or the write-phase byte string (R81). -/
def encodeInstr (cfg : Config) : Instr → List Byte
  | .crc32 c d => bytesOfRequest (requestOf .crc32 c 0#8 0#8 d)
  | .encode c k d => bytesOfRequest (requestOf .encode c k.id 0#8 d)
  | .decode c k d => bytesOfRequest (requestOf .decode c k.id 0#8 d)
  | .classify c op t => bytesOfRequest (requestOf .classify c op t.id [])
  | .tick c k => bytesOfRequest (requestOf .tick c k.id 0#8 [])
  | .build c m => bytesOfRequest (requestOf .build c m 0#8 [])
  | .parse c m d => bytesOfRequest (requestOf .parse c m 0#8 d)
  | .openChannel c l => bytesOfRequest (requestOf .openChannel c l.id 0#8 [])
  | .closeChannel c => bytesOfRequest (requestOf .closeChannel c 0#8 0#8 [])
  | .exec c op t d => bytesOfRequest (requestOf .exec c op t.id d)
  | .illegalRequest _ r => bytesOfRequest r
  | .setDabP body trailer => wireRecord cfg .setDabP body trailer
  | .setDabV body trailer => wireRecord cfg .setDabV body trailer
  | .setTunerOptP body trailer => wireRecord cfg .setTunerOptP body trailer
  | .setTunerOptV body trailer => wireRecord cfg .setTunerOptV body trailer
  | .setProcOptP body trailer => wireRecord cfg .setProcOptP body trailer
  | .setProcOptV body trailer => wireRecord cfg .setProcOptV body trailer
  | .setTunerReg body trailer => wireRecord cfg .setTunerReg body trailer
  | .setSerial body trailer => wireRecord cfg .setSerial body trailer
  | .setPwsConfig body trailer => wireRecord cfg .setPwsConfig body trailer
  | .setMask m => [cfg.op .setMask, m]
  | .setDfuMode body trailer => wireRecord cfg .setDfuMode body trailer
  | .setDfuBlock body trailer => wireRecord cfg .setDfuBlock body trailer
  | .getDabP => [cfg.op .getDabP]
  | .getDabV => [cfg.op .getDabV]
  | .getTunerOptP => [cfg.op .getTunerOptP]
  | .getTunerOptV => [cfg.op .getTunerOptV]
  | .getProcOptP => [cfg.op .getProcOptP]
  | .getProcOptV => [cfg.op .getProcOptV]
  | .getSerial => [cfg.op .getSerial]
  | .getPwsStatus => [cfg.op .getPwsStatus]
  | .getVersion => [cfg.op .getVersion]
  | .getDfuMode => [cfg.op .getDfuMode]
  | .getDfuAck => [cfg.op .getDfuAck]
  | .getMaskData => [cfg.op .getMaskData]
  | .getPing => [cfg.op .getPing]
  | .unassignedProtocolOpcode op req => op :: req

/-- The first `n` bytes of a word of spec/opcode_table.json, bit 0 the least significant bit of the first byte. -/
def wordBytes : Nat → Nat → List Byte
  | 0, _ => []
  | n + 1, w => BitVec.ofNat 8 w :: wordBytes n (w / 256)

/-- The space of a table word (log 3): the table numbers both spaces with one byte, so a first byte below 0x10 is read
as an operation selector and any other as a protocol opcode. -/
def tableSpace (w : Nat) : Space := if w % 256 < 0x10 then .request else .protocol

/-- The least number of bytes of the instruction a table word begins: OPC, A, B and caller of a request, or the
write-phase length the opcode implies (R83). -/
def tableLen (cfg : Config) (w : Nat) : Nat :=
  match tableSpace w with
  | .request => 4
  | .protocol => match entry cfg (BitVec.ofNat 8 w) with
    | some cmd => 1 + reqLen cfg cmd
    | none => 1

/-- The bytes of a table word of `nbits` bits, every byte above them zero. -/
def tableBytes (cfg : Config) (nbits w : Nat) : List Byte :=
  wordBytes ((nbits + 7) / 8) w ++ zeros (tableLen cfg w - (nbits + 7) / 8)

end Machine

/-- The instruction the decoder reads from a word of spec/opcode_table.json, under TVCFG, whose opcode values are the
table's (log 3). -/
def decodeTableWord (nbits w : Nat) : Option Instr :=
  match Machine.decodeBytes Config.tvcfg (Machine.tableSpace w) (Machine.tableBytes Config.tvcfg nbits w) with
  | .ok i => some i
  | .error _ => none

end Sys2Proof
end

