-- ==== Sys2Proof/Machine/State.lean ====
section
/-! DEFINITION. The state of the block (10_state.md), with the configuration it is built over, its inputs and outputs
as data, the faults and refusals of the model, and the state after reset (R36). -/

namespace Sys2Proof.Machine

/-- `S.SEQ_PHASE` (R27): two bits, of which the encoding 3 is never reached (93 U23). -/
inductive SeqPhase where
  | idle
  | write
  | read
  | reserved3
deriving DecidableEq, Repr

/-- `S.SEQ_CTX` (R28). -/
structure SeqCtx where
  owner : Caller
  t : Transport
  op : Byte
  cls : OpClass
  tx : List Byte
  n : Nat
  mask : Byte
deriving DecidableEq, Repr

/-- The status of a response (R89, R240). -/
inductive Status where
  | ok
  | sizeMismatch
  | checksumError
  | shortTransfer
  | channelNotOpen
  | unsupportedOnTransport
  | truncatedComposite
deriving DecidableEq, Repr

/-- The fields a telemetry record adds to its body and trailer (R75, R106). -/
structure Telemetry where
  selector : Byte
  counter : Word
  payload : List Byte
deriving DecidableEq, Repr

/-- `record(k, D)`: a validated record (R106). -/
structure Record where
  kind : Kind
  body : List Byte
  trailer : Word
  telemetry : Option Telemetry
deriving DecidableEq, Repr

/-- One slot of a parsed composite (R181). -/
structure Slot where
  kind : TKind
  status : Status
  record : Option Record
deriving DecidableEq, Repr

/-- CLASSIFY's result (R137). -/
structure Classification where
  cls : BitVec 2
  hit : Bool
  idx : Byte
  reqk : Byte
  respk : Byte
  permitted : Bool
  respLen : Nat
deriving DecidableEq, Repr

/-- The phase a SHORT_TRANSFER names (R243). -/
inductive XferPhase where
  | write
  | read
deriving DecidableEq, Repr

/-- The result of a response: an operation's result, or the information an error carries (R241 to R246). -/
inductive Result where
  /-- No result: TICK, OPEN, CLOSE, a completed write, CHANNEL_NOT_OPEN. -/
  | none
  /-- CRC32's value (R104). -/
  | crc (v : Word)
  /-- ENCODE's record (R105) or BUILD's composite (R176). -/
  | bytes (b : List Byte)
  /-- A validated record (R106, R211). -/
  | record (r : Record)
  /-- CLASSIFY's record (R137). -/
  | classified (c : Classification)
  /-- The slots of a composite (R181, R212). -/
  | slots (l : List Slot)
  /-- A single value byte (R213). -/
  | value (b : Byte)
  /-- SIZE_MISMATCH's information (R241). -/
  | sizes (expected actual : Nat)
  /-- CHECKSUM_ERROR's information from DECODE and from a record read (R242). -/
  | checksums (computed received : Word)
  /-- SHORT_TRANSFER's information (R243). -/
  | short (phase : XferPhase) (transferred requested : Nat)
  /-- UNSUPPORTED_ON_TRANSPORT's information (R245). -/
  | unsupported (op : Byte) (t : Transport)
  /-- TRUNCATED_COMPOSITE's slots and information (R181, R246). -/
  | truncated (l : List Slot) (kind : TKind) (remaining needed : Nat)
  /-- SIZE_MISMATCH's slots and information from PARSE (R181, R241). -/
  | excess (l : List Slot) (expected actual : Nat)
deriving DecidableEq, Repr

/-- A response at the response port (R89). -/
structure Response where
  status : Status
  result : Result
deriving DecidableEq, Repr

/-- One transfer on the transport port with the transport's answer (R13). -/
inductive Transfer where
  /-- `TxPhase(t, tx) -> m`. -/
  | tx (t : Transport) (bytes : List Byte) (m : Nat)
  /-- `RxPhase(t, n, fill) -> rx`. -/
  | rx (t : Transport) (n : Nat) (fill : List Byte) (got : List Byte)
deriving DecidableEq, Repr

/-- A step of an agent (R6), as the model is told of it (log 5). -/
inductive Event where
  /-- A caller puts a request at the request port (R31). -/
  | issue (r : Request)
  /-- The pending request of a caller takes its step (R59, R203). -/
  | take (c : Caller)
  /-- The transport takes the write-phase step and reports `m` bytes (R13, R206). -/
  | txPhase (m : Nat)
  /-- The transport takes the read-phase step and delivers `rx` (R13, R210). -/
  | rxPhase (rx : List Byte)
  /-- The sample source puts a payload of kind `c` at the sample port (R14). -/
  | sample (c : TKind) (payload : List Byte)
  /-- The reset input (R270). -/
  | reset
deriving DecidableEq, Repr

/-- What the external agents present to the block (log 6): the current payloads `Src(c)` (R14) and the transport's
answer to the phase being taken (R13). -/
structure Inputs where
  src : Vector (List Byte) 8
  txCount : Nat
  rx : List Byte
deriving DecidableEq, Repr

/-- The state of the block. The first ten fields are the spec's (10_state.md; `refusedRun` is R247's flag); the others
are the configuration and the model's own. -/
structure State where
  /-- `S.CNT[c]`, indexed by telemetry kind id (R23). -/
  cnt : Vector Word 8
  /-- `S.CH_OPEN` (R24). -/
  chOpen : Bool
  /-- `S.CH_LINK` (R26). -/
  chLink : Link
  /-- `S.DESYNC` (R25). -/
  desync : Bool
  /-- `S.SEQ_PHASE` (R27). -/
  seqPhase : SeqPhase
  /-- `S.SEQ_CTX` (R28). -/
  seqCtx : SeqCtx
  /-- `S.MASK_SHADOW` (R29). -/
  maskShadow : Byte
  /-- `S.CRC_ACC` (R30). -/
  crcAcc : Word
  /-- `S.PENDING` (R31): the request of each caller id that has one. -/
  pending : Vector (Option Request) 16
  /-- The flag of R247: a request of the run was refused (log 8). -/
  refusedRun : Bool
  /-- The configuration, fixed for the life of an instance (R7, log 4). -/
  cfg : Config
  /-- The agents' steps still to come (log 5). -/
  agenda : List Event
  /-- What the external agents present (log 6). -/
  inputs : Inputs
  /-- What the response port has given, newest first (R84, log 7). -/
  responses : List (Caller × Response)
  /-- The transfers made, newest first (log 7). -/
  wire : List Transfer
  /-- The index of the next free value RESET draws (log 10). -/
  freeIdx : Nat
deriving DecidableEq, Repr

/-- Why the model stops with a fault. -/
inductive Fault where
  /-- `S.SEQ_PHASE` holds the encoding 3, which is never reached (93 U23): raised by the channel operations and the
  protocol instructions. Safe: the model stops where an invariant is broken. -/
  | reservedPhase
  /-- A protocol instruction run in a phase in which the sequencer never runs it (log 12): raised by the protocol
  instructions, in states no run reaches. Safe. -/
  | wrongPhase
  /-- The write-phase bytes of a transaction in flight are no instruction (log 12): raised by the fetch of a transport
  step, in states no run reaches. Safe. -/
  | contextBroken (e : DecodeError)
deriving DecidableEq, Repr

/-- Why the model gives no meaning. -/
inductive Refusal where
  /-- An instruction without a meaning yet: raised by exec's refused arms only. Safe. -/
  | notModelled (mnemonic : String)
  /-- The configuration is not well-formed, so no instance exists (R8, 93 U24): raised by step. Safe. -/
  | illFormedConfiguration
  /-- The transport reports more bytes than were asked for, which R13 (D33) excludes: raised by the protocol
  instructions (log 11). Safe. -/
  | transportOverrun
deriving DecidableEq, Repr

/-- What a step answers. -/
abbrev Answer := Host.Outcome State Fault Refusal

/-- The machine right after reset over a configuration (R36, R272). `chLink`, `seqCtx` and `crcAcc` are unspecified
there: DESIGN CHOICE, unsafe (log 9). The sample port presents payloads of their lengths, so BUILD needs no set-up
(R275, log 6). -/
def State.resetWith (cfg : Config) : State where
  cnt := Vector.replicate 8 Config.cntReset
  chOpen := false
  chLink := .spi
  desync := false
  seqPhase := .idle
  seqCtx := { owner := 0#4, t := .spi, op := 0#8, cls := .write, tx := [], n := 0, mask := 0#8 }
  maskShadow := 0#8
  crcAcc := 0#32
  pending := Vector.replicate 16 none
  refusedRun := false
  cfg := cfg
  agenda := []
  inputs := { src := initialPayloads cfg, txCount := 0, rx := [] }
  responses := []
  wire := []
  freeIdx := 0

/-- The machine right after reset, over TVCFG (log 4). -/
def State.reset : State := State.resetWith Config.tvcfg

end Sys2Proof.Machine
end

