-- ==== Sys2Proof/Machine/Operands.lean ====
section
/-! DEFINITION. Records and composites: the trailer generator and verifier (R105, R106), the compositor (R176) and the
parser (R181), as functions of bytes. A function that computes a CRC also gives the value it leaves in `S.CRC_ACC`
(R30, R101). -/

namespace Sys2Proof.Machine

/-- `ENCODE`'s record: the body and its little-endian CRC (R73, R105). -/
def encodeRecord (cfg : Config) (body : List Byte) : List Byte := body ++ le32bytes (crc32 cfg body)

/-- `record(k, D)` (R106). -/
def mkRecord (k : Kind) (d : List Byte) : Record where
  kind := k
  body := memRead d 0 (d.length - 4)
  trailer := le32 d (d.length - 4)
  telemetry :=
    if k.isTelemetry then
      some { selector := byteAt d 0, counter := le32 d 1, payload := memRead d 5 (d.length - 9) }
    else none

/-- `DECODE(k, D)` (R106, R107): the response, and `S.CRC_ACC` after it (from `acc`, when no CRC is computed). -/
def decodeRecord (cfg : Config) (k : Kind) (acc : Word) (d : List Byte) : Response × Word :=
  if d.length ≠ cfg.size k then (⟨.sizeMismatch, .sizes (cfg.size k) d.length⟩, acc)
  else
    let body := memRead d 0 (d.length - 4)
    let received := le32 d (d.length - 4)
    if crc32 cfg body ≠ received then (⟨.checksumError, .checksums (crc32 cfg body) received⟩, crcReg body)
    else (⟨.ok, .record (mkRecord k d)⟩, crcReg body)

/-- The body of a telemetry record: selector, counter, payload (R75, R78, R176). -/
def telemetryBody (cfg : Config) (c : TKind) (cnt : Word) (payload : List Byte) : List Byte :=
  BitVec.ofNat 8 (cfg.kindBit c).val :: (le32bytes cnt ++ payload)

/-- The compositor's loop of R176 over a list of kinds: the composite so far and `S.CRC_ACC`, or none when the sample
source breaks its length contract for a kind that is read (R175). -/
def buildFrom (cfg : Config) (cnt : Vector Word 8) (src : Vector (List Byte) 8) (m : Byte) :
    List TKind → List Byte → Word → Option (List Byte × Word)
  | [], out, acc => some (out, acc)
  | c :: cs, out, acc =>
    if enabled cfg m c then
      if src[c.idx].length + 9 = cfg.size c.toKind then
        buildFrom cfg cnt src m cs (out ++ encodeRecord cfg (telemetryBody cfg c cnt[c.idx] src[c.idx]))
          (crcReg (telemetryBody cfg c cnt[c.idx] src[c.idx]))
      else none
    else buildFrom cfg cnt src m cs out acc

/-- `BUILD(m)`'s composite, in canonical order (R176). -/
def buildComposite (cfg : Config) (cnt : Vector Word 8) (src : Vector (List Byte) 8) (m : Byte) (acc : Word) :
    Option (List Byte × Word) :=
  buildFrom cfg cnt src m TKind.all [] acc

/-- The variables of the parser's loop (R181): `trunc` holds the kind, the bytes remaining and the bytes needed. -/
structure ParseState where
  off : Nat
  slots : List Slot
  trunc : Option (TKind × Nat × Nat)
  anyck : Bool
  acc : Word
deriving DecidableEq, Repr

/-- The variables before the loop (R181). -/
def ParseState.start (acc : Word) : ParseState := { off := 0, slots := [], trunc := none, anyck := false, acc := acc }

/-- A slot after DECODE of its slice (R181). -/
def decodedSlot (c : TKind) (r : Response) : Slot :=
  match r.result with
  | .record rec => { kind := c, status := r.status, record := some rec }
  | _ => { kind := c, status := r.status, record := none }

/-- One pass of the parser's loop, for an enabled kind (R181). -/
def parseKind (cfg : Config) (d : List Byte) (st : ParseState) (c : TKind) : ParseState :=
  if st.trunc.isSome then
    { st with slots := st.slots ++ [{ kind := c, status := .truncatedComposite, record := none }] }
  else if d.length - st.off < cfg.size c.toKind then
    { st with
      slots := st.slots ++ [{ kind := c, status := .truncatedComposite, record := none }]
      trunc := some (c, d.length - st.off, cfg.size c.toKind) }
  else
    let r := decodeRecord cfg c.toKind st.acc (memRead d st.off (cfg.size c.toKind))
    { off := st.off + cfg.size c.toKind
      slots := st.slots ++ [decodedSlot c r.1]
      trunc := none
      anyck := st.anyck || r.1.status == .checksumError
      acc := r.2 }

/-- The parser's loop over a list of kinds (R181). -/
def parseFrom (cfg : Config) (m : Byte) (d : List Byte) : List TKind → ParseState → ParseState
  | [], st => st
  | c :: cs, st => parseFrom cfg m d cs (if enabled cfg m c then parseKind cfg d st c else st)

/-- The response of a finished parse, by the precedence of R181 and R250. -/
def parseResponse (cfg : Config) (m : Byte) (d : List Byte) (st : ParseState) : Response :=
  match st.trunc with
  | some (kind, remaining, needed) => ⟨.truncatedComposite, .truncated st.slots kind remaining needed⟩
  | none =>
    if st.off < d.length then ⟨.sizeMismatch, .excess st.slots (compositeLen cfg m) d.length⟩
    else if st.anyck then ⟨.checksumError, .slots st.slots⟩
    else ⟨.ok, .slots st.slots⟩

/-- `PARSE(m, D)` (R181): the response, and `S.CRC_ACC` after it. -/
def parseComposite (cfg : Config) (m : Byte) (acc : Word) (d : List Byte) : Response × Word :=
  let st := parseFrom cfg m d TKind.all (ParseState.start acc)
  (parseResponse cfg m d st, st.acc)

/-- CLASSIFY's result (R137). -/
def classification (cfg : Config) (op : Byte) (t : Transport) (mask : Byte) : Classification :=
  match entry cfg op with
  | some cmd =>
    { cls := (opClass op).code
      hit := true
      idx := BitVec.ofNat 8 cmd.idx.val
      reqk := reqCode cmd.req
      respk := respCode cmd.resp
      permitted := permitted cfg op t
      respLen := respLen cfg op mask }
  | none =>
    { cls := (opClass op).code
      hit := false
      idx := 0xFF#8
      reqk := 0xFF#8
      respk := 0xFF#8
      permitted := permitted cfg op t
      respLen := 0 }

end Sys2Proof.Machine
end

