-- ==== Sys2Proof/Machine/Ops.lean ====
section
/-! DEFINITION. The named operations over the state: the response port (R10, R89, R251), PENDING (R31), the counters
(R23), the channel's exclusion (R62), the transport phases (R13, R206, R210), RESET (R270), and the choice of the next
agent's step. The block takes no trap: `State.respond` with an error status is what `raise` is (R10, R251), and there
is nothing to return from (R252). -/

namespace Sys2Proof.Machine

namespace State

/-- The pending request of a caller id (R31). -/
def pendingOf (s : State) (c : Caller) : Option Request := s.pending[c.toNat]'c.isLt

/-- Set or clear the pending request of a caller id (R31). -/
def setPending (s : State) (c : Caller) (r : Option Request) : State :=
  { s with pending := s.pending.set c.toNat r c.isLt }

/-- `respond(status, result)` to a caller (R10): the response is given and the request leaves PENDING (R31). Every
error is this and nothing more (R251): no state is saved, no mode changes, there is no handler. -/
def respond (s : State) (c : Caller) (r : Response) : State :=
  { s.setPending c none with responses := (c, r) :: s.responses }

/-- `refuse(reason)` (R10, R247): no response and no state change; the request leaves PENDING (R31) and the flag of
the run is set (log 8). -/
def refuseRequest (s : State) (c : Caller) : State :=
  { s.setPending c none with refusedRun := true }

/-- `S.CNT[c]` (R23). -/
def counter (s : State) (c : TKind) : Word := s.cnt[c.idx]

/-- `S.CNT[c] <- v` (R23). -/
def setCounter (s : State) (c : TKind) (v : Word) : State := { s with cnt := s.cnt.set c.idx v }

/-- A caller puts a request at the port: it enters PENDING, unless the caller is blocked on one already (R6, R31). -/
def issue (s : State) (r : Request) : State :=
  if (s.pendingOf r.caller).isSome then s else s.setPending r.caller (some r)

/-- The sample source presents a payload of kind `c` (R14). -/
def present (s : State) (c : TKind) (payload : List Byte) : State :=
  { s with inputs := { s.inputs with src := s.inputs.src.set c.idx payload } }

/-- Record a transfer made on the transport port (log 7). -/
def logTransfer (s : State) (x : Transfer) : State := { s with wire := x :: s.wire }

/-- The context RESET leaves: free values (R270, log 10). -/
def resetCtx (n : Nat) : SeqCtx where
  owner := Config.resetOwner n
  t := Config.resetTransport n
  op := Config.resetOp n
  cls := Config.resetClass n
  tx := Config.resetTx n
  n := Config.resetN n
  mask := Config.resetMask n

/-- The RESET event (R270, R271): the table of R36, with free values where it leaves a register unspecified. PENDING
is dropped without a response. What went out on the ports stays (R271).

DESIGN CHOICE (log 26), unsafe: of a phase that RESET cuts no byte is logged, though R271 lets part have gone out.
DESIGN CHOICE (log 27), unsafe: the requests dropped do not set the run's flag, though 93 U14 names them `refuse`. -/
def takeReset (s : State) : State :=
  { s with
    cnt := Vector.replicate 8 Config.cntReset
    chOpen := false
    chLink := Config.resetLink s.freeIdx
    desync := false
    seqPhase := .idle
    seqCtx := resetCtx s.freeIdx
    maskShadow := 0#8
    crcAcc := Config.resetCrcAcc s.freeIdx
    pending := Vector.replicate 16 none
    freeIdx := s.freeIdx + 1 }

/-- The end of a transaction with a response to its owner: `S.SEQ_PHASE <- IDLE` (R206, R207, R210). -/
def complete (s : State) (r : Response) : State :=
  { s with seqPhase := .idle }.respond s.seqCtx.owner r

/-- SHORT_TRANSFER (R206, R210, R243): `S.DESYNC <- 1`, and the transaction ends. -/
def failShort (s : State) (phase : XferPhase) (transferred requested : Nat) : State :=
  { s with desync := true }.complete ⟨.shortTransfer, .short phase transferred requested⟩

/-- The result of a record read: DECODE of the bytes (R211). -/
def completeRecord (s : State) (k : Kind) (rx : List Byte) : State :=
  { s with crcAcc := (decodeRecord s.cfg k s.crcAcc rx).2 }.complete (decodeRecord s.cfg k s.crcAcc rx).1

/-- The result of GET_MASK_DATA: PARSE of the bytes under the mask of the context (R212, R214). -/
def completeMask (s : State) (rx : List Byte) : State :=
  { s with crcAcc := (parseComposite s.cfg s.seqCtx.mask s.crcAcc rx).2 }.complete
    (parseComposite s.cfg s.seqCtx.mask s.crcAcc rx).1

/-- The result of a single-value read: the byte, unchecked (R82, R213). -/
def completeByte (s : State) (rx : List Byte) : State :=
  s.complete ⟨.ok, .value (byteAt rx 0)⟩

end State

/-- A channel operation steps only while `S.SEQ_PHASE = IDLE`; else it holds: nothing changes and its request stays
pending (R10, R62, R201 to R203). -/
def whenIdle (s : State) (go : State) : Answer :=
  match s.seqPhase with
  | .idle => .next go
  | .write => .next s
  | .read => .next s
  | .reserved3 => .fault .reservedPhase

/-- The bytes transmitted during a read phase (R209). -/
def readFill (t : Transport) (n : Nat) : List Byte :=
  match t.link with
  | .spi => zeros n
  | .usb => []

/-- The write-phase step of a transaction that transmits `tx` (R206): the transport's count decides between
SHORT_TRANSFER and `done`. -/
def transmit (s : State) (tx : List Byte) (done : State → State) : Answer :=
  if tx.length < s.inputs.txCount then .refused .transportOverrun
  else if s.inputs.txCount < tx.length then
    .next ((s.logTransfer (.tx s.seqCtx.t tx s.inputs.txCount)).failShort .write s.inputs.txCount tx.length)
  else .next (done (s.logTransfer (.tx s.seqCtx.t tx s.inputs.txCount)))

/-- The read-phase step of a transaction (R210): `S.SEQ_CTX.n` bytes are asked for, and the transport's bytes decide
between SHORT_TRANSFER and `result`. -/
def receive (s : State) (result : State → List Byte → State) : Answer :=
  if s.seqCtx.n < s.inputs.rx.length then .refused .transportOverrun
  else
    let s1 := s.logTransfer (.rx s.seqCtx.t s.seqCtx.n (readFill s.seqCtx.t s.seqCtx.n) s.inputs.rx)
    if s.inputs.rx.length < s.seqCtx.n then .next (s1.failShort .read s.inputs.rx.length s.seqCtx.n)
    else .next (result s1 s.inputs.rx)

/-- Read-phase entry once the write phase of a read is complete (R208), or the zero-length read phase (R214, log 23). -/
def enterRead (s : State) : State :=
  if s.seqCtx.n = 0 then s.completeMask [] else { s with seqPhase := .read }

/-- The step of a write command in flight: its write phase, then its completion `done` (R206, R207). -/
def writeCommand (s : State) (tx : List Byte) (done : State → State) : Answer :=
  match s.seqPhase with
  | .write => transmit s tx fun s1 => (done s1).complete ⟨.ok, .none⟩
  | .idle => .fault .wrongPhase
  | .read => .fault .wrongPhase
  | .reserved3 => .fault .reservedPhase

/-- The step of a read command in flight: its write phase and read-phase entry (R206, R208, R214), or its read phase
with the result `result` (R210). -/
def readCommand (s : State) (tx : List Byte) (result : State → List Byte → State) : Answer :=
  match s.seqPhase with
  | .write => transmit s tx enterRead
  | .read => receive s result
  | .idle => .fault .wrongPhase
  | .reserved3 => .fault .reservedPhase

/-- What the next entry of the agenda asks of the block: an instruction to run, or a step that runs none. -/
inductive Fetched where
  | run (i : Instr) (s : State)
  | quiet (s : State)
  | stop (f : Fault)
deriving DecidableEq, Repr

/-- The instruction of the transport's step: the one the write-phase bytes in flight spell (R81, R206, R210). -/
def fetchWire (s : State) : Fetched :=
  match decodeWire s.cfg s.seqCtx.tx with
  | .ok i => .run i s
  | .error e => .stop (.contextBroken e)

/-- A transport step is taken only in its own phase (R206, R210): `s1` is the state with the transport's answer. In
another phase the transport has no step to take and nothing changes. -/
def fetchPhase (s : State) (p : SeqPhase) (s1 : State) : Fetched :=
  if s.seqPhase = .reserved3 then .stop .reservedPhase
  else if s.seqPhase = p then fetchWire s1
  else .quiet s

/-- The step of a caller (R59, R203): its pending request is decoded; with none pending nothing changes. -/
def fetchRequest (s : State) (c : Caller) : Fetched :=
  match s.pendingOf c with
  | some r => .run (decodeRequest s.cfg r) s
  | none => .quiet s

/-- One entry of the agenda (log 5). -/
def fetchEvent (s : State) : Event → Fetched
  | .issue r => .quiet (s.issue r)
  | .take c => fetchRequest s c
  | .txPhase m => fetchPhase s .write { s with inputs := { s.inputs with txCount := m } }
  | .rxPhase rx => fetchPhase s .read { s with inputs := { s.inputs with rx := rx } }
  | .sample c payload => .quiet (s.present c payload)
  | .reset => .quiet s.takeReset

/-- The next step of the machine: the head of the agenda; with an empty agenda the block waits (R272). -/
def fetch (s : State) : Fetched :=
  match s.agenda with
  | [] => .quiet s
  | e :: rest => fetchEvent { s with agenda := rest } e

end Sys2Proof.Machine
end

