-- ==== Sys2Proof/Machine/Channel.lean ====
section
/-! DEFINITION. The sequencer's operations at the request port (43_sequencer.md): OPEN, CLOSE, and EXEC's issue step. -/

namespace Sys2Proof.Machine

/-- OPEN (R201). -/
def execOpenChannel (c : Caller) (l : Link) (s : State) : Answer :=
  whenIdle s ({ s with chOpen := true, chLink := l, desync := false }.respond c ⟨.ok, .none⟩)

/-- CLOSE (R202). -/
def execCloseChannel (c : Caller) (s : State) : Answer :=
  whenIdle s ({ s with chOpen := false, desync := false }.respond c ⟨.ok, .none⟩)

/-- The write-phase bytes of a command with body `d` (R205). -/
def issueBytes (cfg : Config) (cmd : Command) (d : List Byte) : List Byte :=
  match cmd.req with
  | .none => [cfg.op cmd]
  | .rawMask => cfg.op cmd :: d
  | .record _ => wireRecord cfg cmd d (crc32 cfg d)

/-- `S.CRC_ACC` after the write-phase bytes are built: a record's CRC is computed (R101, R205, log 14). -/
def issueAcc (cmd : Command) (acc : Word) (d : List Byte) : Word :=
  match cmd.req with
  | .none => acc
  | .rawMask => acc
  | .record _ => crcReg d

/-- The context of a transaction (R205). -/
def issueCtx (s : State) (c : Caller) (cmd : Command) (op : Byte) (t : Transport) (d : List Byte) : SeqCtx where
  owner := c
  t := t
  op := op
  cls := opClass op
  tx := issueBytes s.cfg cmd d
  n := respLen s.cfg op s.maskShadow
  mask := s.maskShadow

/-- The issue step once the channel is idle: the checks of R204 in their order, then the write phase (R205). -/
def issueStep (c : Caller) (op : Byte) (t : Transport) (d : List Byte) (s : State) : State :=
  if s.chOpen = false then s.respond c ⟨.channelNotOpen, .none⟩
  else if t.link ≠ s.chLink then s.respond c ⟨.unsupportedOnTransport, .unsupported op t⟩
  else match entry s.cfg op with
  | none => s.respond c ⟨.unsupportedOnTransport, .unsupported op t⟩
  | some cmd =>
    if permitted s.cfg op t = false then s.respond c ⟨.unsupportedOnTransport, .unsupported op t⟩
    else if d.length ≠ bodyLen s.cfg cmd then s.respond c ⟨.sizeMismatch, .sizes (bodyLen s.cfg cmd) d.length⟩
    else
      { s with
        crcAcc := issueAcc cmd s.crcAcc d
        seqCtx := issueCtx s c cmd op t d
        seqPhase := .write }

/-- EXEC's issue step (R203 to R205). The request stays pending until the transaction answers it (R31). -/
def execExec (c : Caller) (op : Byte) (t : Transport) (d : List Byte) (s : State) : Answer :=
  whenIdle s (issueStep c op t d s)

end Sys2Proof.Machine
end

