-- ==== Sys2Proof/Machine/Codec.lean ====
section
/-! DEFINITION. The Frame Codec's operations (40_crc_codec.md): CRC32, ENCODE, DECODE. -/

namespace Sys2Proof.Machine

/-- CRC32 (R104). -/
def execCrc32 (c : Caller) (d : List Byte) (s : State) : Answer :=
  .next ({ s with crcAcc := crcReg d }.respond c ⟨.ok, .crc (crc32 s.cfg d)⟩)

/-- ENCODE (R105). -/
def execEncode (c : Caller) (k : Kind) (d : List Byte) (s : State) : Answer :=
  if d.length ≠ s.cfg.size k - 4 then
    .next (s.respond c ⟨.sizeMismatch, .sizes (s.cfg.size k - 4) d.length⟩)
  else .next ({ s with crcAcc := crcReg d }.respond c ⟨.ok, .bytes (encodeRecord s.cfg d)⟩)

/-- DECODE (R106 to R108). -/
def execDecode (c : Caller) (k : Kind) (d : List Byte) (s : State) : Answer :=
  .next ({ s with crcAcc := (decodeRecord s.cfg k s.crcAcc d).2 }.respond c (decodeRecord s.cfg k s.crcAcc d).1)

end Sys2Proof.Machine
end

