-- ==== Sys2Proof/Machine/Commands.lean ====
section
/-! DEFINITION. The catalog commands (41_dispatch.md) as the sequencer runs them: each meaning is the transport's step
of a transaction whose write-phase bytes spell the command. In the phase WRITE it is the write-phase step (R206) with
the command's completion (R207) or read-phase entry (R208, R214); in the phase READ it is the read-phase step (R210)
with the command's result (R211 to R213). The issue step that starts the transaction is EXEC's (Channel.lean). -/

namespace Sys2Proof.Machine

/-- SET_DAB_P (R139). -/
def execSetDabP (body : List Byte) (trailer : Word) (s : State) : Answer :=
  writeCommand s (wireRecord s.cfg .setDabP body trailer) id

/-- SET_DAB_V (R140). -/
def execSetDabV (body : List Byte) (trailer : Word) (s : State) : Answer :=
  writeCommand s (wireRecord s.cfg .setDabV body trailer) id

/-- SET_TUNER_OPT_P (R141). -/
def execSetTunerOptP (body : List Byte) (trailer : Word) (s : State) : Answer :=
  writeCommand s (wireRecord s.cfg .setTunerOptP body trailer) id

/-- SET_TUNER_OPT_V (R142). -/
def execSetTunerOptV (body : List Byte) (trailer : Word) (s : State) : Answer :=
  writeCommand s (wireRecord s.cfg .setTunerOptV body trailer) id

/-- SET_PROC_OPT_P (R143). -/
def execSetProcOptP (body : List Byte) (trailer : Word) (s : State) : Answer :=
  writeCommand s (wireRecord s.cfg .setProcOptP body trailer) id

/-- SET_PROC_OPT_V (R144). -/
def execSetProcOptV (body : List Byte) (trailer : Word) (s : State) : Answer :=
  writeCommand s (wireRecord s.cfg .setProcOptV body trailer) id

/-- SET_TUNER_REG (R145). -/
def execSetTunerReg (body : List Byte) (trailer : Word) (s : State) : Answer :=
  writeCommand s (wireRecord s.cfg .setTunerReg body trailer) id

/-- SET_SERIAL (R146). -/
def execSetSerial (body : List Byte) (trailer : Word) (s : State) : Answer :=
  writeCommand s (wireRecord s.cfg .setSerial body trailer) id

/-- SET_PWS_CONFIG (R147). -/
def execSetPwsConfig (body : List Byte) (trailer : Word) (s : State) : Answer :=
  writeCommand s (wireRecord s.cfg .setPwsConfig body trailer) id

/-- SET_MASK (R148): the raw mask byte, which becomes `S.MASK_SHADOW` when the write phase is complete (R207). -/
def execSetMask (m : Byte) (s : State) : Answer :=
  writeCommand s [s.cfg.op .setMask, m] fun s1 => { s1 with maskShadow := m }

/-- SET_DFU_MODE (R149). -/
def execSetDfuMode (body : List Byte) (trailer : Word) (s : State) : Answer :=
  writeCommand s (wireRecord s.cfg .setDfuMode body trailer) id

/-- SET_DFU_BLOCK (R150). -/
def execSetDfuBlock (body : List Byte) (trailer : Word) (s : State) : Answer :=
  writeCommand s (wireRecord s.cfg .setDfuBlock body trailer) id

/-- GET_DAB_P (R151). -/
def execGetDabP (s : State) : Answer :=
  readCommand s [s.cfg.op .getDabP] fun s1 rx => s1.completeRecord .dab rx

/-- GET_DAB_V (R152). -/
def execGetDabV (s : State) : Answer :=
  readCommand s [s.cfg.op .getDabV] fun s1 rx => s1.completeRecord .dab rx

/-- GET_TUNER_OPT_P (R153). -/
def execGetTunerOptP (s : State) : Answer :=
  readCommand s [s.cfg.op .getTunerOptP] fun s1 rx => s1.completeRecord .tunerOpt rx

/-- GET_TUNER_OPT_V (R154). -/
def execGetTunerOptV (s : State) : Answer :=
  readCommand s [s.cfg.op .getTunerOptV] fun s1 rx => s1.completeRecord .tunerOpt rx

/-- GET_PROC_OPT_P (R155). -/
def execGetProcOptP (s : State) : Answer :=
  readCommand s [s.cfg.op .getProcOptP] fun s1 rx => s1.completeRecord .procOpt rx

/-- GET_PROC_OPT_V (R156). -/
def execGetProcOptV (s : State) : Answer :=
  readCommand s [s.cfg.op .getProcOptV] fun s1 rx => s1.completeRecord .procOpt rx

/-- GET_SERIAL (R157). -/
def execGetSerial (s : State) : Answer :=
  readCommand s [s.cfg.op .getSerial] fun s1 rx => s1.completeRecord .serial rx

/-- GET_PWS_STATUS (R158). -/
def execGetPwsStatus (s : State) : Answer :=
  readCommand s [s.cfg.op .getPwsStatus] fun s1 rx => s1.completeRecord .pwsStatus rx

/-- GET_VERSION (R159). -/
def execGetVersion (s : State) : Answer :=
  readCommand s [s.cfg.op .getVersion] fun s1 rx => s1.completeRecord .version rx

/-- GET_DFU_MODE (R160). -/
def execGetDfuMode (s : State) : Answer :=
  readCommand s [s.cfg.op .getDfuMode] fun s1 rx => s1.completeRecord .dfuMode rx

/-- GET_DFU_ACK (R161). -/
def execGetDfuAck (s : State) : Answer :=
  readCommand s [s.cfg.op .getDfuAck] fun s1 rx => s1.completeRecord .dfuAck rx

/-- GET_MASK_DATA (R162). -/
def execGetMaskData (s : State) : Answer :=
  readCommand s [s.cfg.op .getMaskData] State.completeMask

/-- GET_PING (R163). -/
def execGetPing (s : State) : Answer :=
  readCommand s [s.cfg.op .getPing] State.completeByte

/-- An opcode no catalog entry takes (R91): UNSUPPORTED_ON_TRANSPORT to the owner, with no byte transferred. EXEC's
issue step answers it before a transaction exists (R204), so no run brings one in flight (log 16). -/
def execUnassignedProtocolOpcode (op : Byte) (_req : List Byte) (s : State) : Answer :=
  match s.seqPhase with
  | .write => .next (s.complete ⟨.unsupportedOnTransport, .unsupported op s.seqCtx.t⟩)
  | .idle => .fault .wrongPhase
  | .read => .fault .wrongPhase
  | .reserved3 => .fault .reservedPhase

end Sys2Proof.Machine
end

