-- ==== Sys2Proof/Machine/Dispatcher.lean ====
section
/-! DEFINITION. The dispatcher's operation CLASSIFY (R137), and the refusal of an illegal request (R90, R247). -/

namespace Sys2Proof.Machine

/-- CLASSIFY (R137). -/
def execClassify (c : Caller) (op : Byte) (t : Transport) (s : State) : Answer :=
  .next (s.respond c ⟨.ok, .classified (classification s.cfg op t s.maskShadow)⟩)

/-- A request that spells no operation (R90): it is refused, whatever its reason (R247, log 8). -/
def execIllegalRequest (_why : IllegalReason) (r : Request) (s : State) : Answer :=
  .next (s.refuseRequest r.caller)

end Sys2Proof.Machine
end

