-- ==== Sys2Proof/Machine/Mux.lean ====
section
/-! DEFINITION. The multiplexer's operations (42_mux.md): TICK, BUILD, PARSE. -/

namespace Sys2Proof.Machine

/-- TICK (R172): the counter of one kind advances modulo 2^32. -/
def execTick (c : Caller) (k : TKind) (s : State) : Answer :=
  .next ((s.setCounter k (s.counter k + 1#32)).respond c ⟨.ok, .none⟩)

/-- BUILD (R176); refused when the sample source breaks its length contract for a kind it reads (R175, R247). -/
def execBuild (c : Caller) (m : Byte) (s : State) : Answer :=
  match buildComposite s.cfg s.cnt s.inputs.src m s.crcAcc with
  | some (out, acc) => .next ({ s with crcAcc := acc }.respond c ⟨.ok, .bytes out⟩)
  | none => .next (s.refuseRequest c)

/-- PARSE (R181). -/
def execParse (c : Caller) (m : Byte) (d : List Byte) (s : State) : Answer :=
  .next ({ s with crcAcc := (parseComposite s.cfg m s.crcAcc d).2 }.respond c
    (parseComposite s.cfg m s.crcAcc d).1)

end Sys2Proof.Machine
end

