-- ==== Sys2Proof/Machine/Dispatch.lean ====
section
/-! DEFINITION. The meaning of every instruction, one arm per constructor. -/

namespace Sys2Proof.Machine

def exec (i : Instr) (s : State) : Host.Outcome State Fault Refusal :=
  match i with
  | .crc32 c d => Sys2Proof.Machine.execCrc32 c d s
  | .encode c k d => Sys2Proof.Machine.execEncode c k d s
  | .decode c k d => Sys2Proof.Machine.execDecode c k d s
  | .classify c op t => Sys2Proof.Machine.execClassify c op t s
  | .tick c k => Sys2Proof.Machine.execTick c k s
  | .build c m => Sys2Proof.Machine.execBuild c m s
  | .parse c m d => Sys2Proof.Machine.execParse c m d s
  | .openChannel c l => Sys2Proof.Machine.execOpenChannel c l s
  | .closeChannel c => Sys2Proof.Machine.execCloseChannel c s
  | .exec c op t d => Sys2Proof.Machine.execExec c op t d s
  | .illegalRequest why r => Sys2Proof.Machine.execIllegalRequest why r s
  | .setDabP body trailer => Sys2Proof.Machine.execSetDabP body trailer s
  | .setDabV body trailer => Sys2Proof.Machine.execSetDabV body trailer s
  | .setTunerOptP body trailer => Sys2Proof.Machine.execSetTunerOptP body trailer s
  | .setTunerOptV body trailer => Sys2Proof.Machine.execSetTunerOptV body trailer s
  | .setProcOptP body trailer => Sys2Proof.Machine.execSetProcOptP body trailer s
  | .setProcOptV body trailer => Sys2Proof.Machine.execSetProcOptV body trailer s
  | .setTunerReg body trailer => Sys2Proof.Machine.execSetTunerReg body trailer s
  | .setSerial body trailer => Sys2Proof.Machine.execSetSerial body trailer s
  | .setPwsConfig body trailer => Sys2Proof.Machine.execSetPwsConfig body trailer s
  | .setMask m => Sys2Proof.Machine.execSetMask m s
  | .setDfuMode body trailer => Sys2Proof.Machine.execSetDfuMode body trailer s
  | .setDfuBlock body trailer => Sys2Proof.Machine.execSetDfuBlock body trailer s
  | .getDabP => Sys2Proof.Machine.execGetDabP s
  | .getDabV => Sys2Proof.Machine.execGetDabV s
  | .getTunerOptP => Sys2Proof.Machine.execGetTunerOptP s
  | .getTunerOptV => Sys2Proof.Machine.execGetTunerOptV s
  | .getProcOptP => Sys2Proof.Machine.execGetProcOptP s
  | .getProcOptV => Sys2Proof.Machine.execGetProcOptV s
  | .getSerial => Sys2Proof.Machine.execGetSerial s
  | .getPwsStatus => Sys2Proof.Machine.execGetPwsStatus s
  | .getVersion => Sys2Proof.Machine.execGetVersion s
  | .getDfuMode => Sys2Proof.Machine.execGetDfuMode s
  | .getDfuAck => Sys2Proof.Machine.execGetDfuAck s
  | .getMaskData => Sys2Proof.Machine.execGetMaskData s
  | .getPing => Sys2Proof.Machine.execGetPing s
  | .unassignedProtocolOpcode op req => Sys2Proof.Machine.execUnassignedProtocolOpcode op req s

end Sys2Proof.Machine
end

