-- ==== Sys2Proof/Machine/Step.lean ====
section
/-! DEFINITION. One step of the machine: the next agent's step of the agenda (log 5), over a well-formed configuration
(R8); and the placing of one instruction where the next step runs it (log 21). -/

namespace Sys2Proof.Machine

/-- One step: a configuration that is not well-formed is refused (R8); else the agenda's next entry is taken. -/
def step (s : State) : Host.Outcome State Fault Refusal :=
  if s.cfg.wf then
    match fetch s with
    | .run i s1 => exec i s1
    | .quiet s1 => .next s1
    | .stop f => .fault f
  else .refused .illFormedConfiguration

/-- A transport that permits the opcode, SPI if none does. -/
def someTransport (cfg : Config) (op : Byte) : Transport :=
  if permitted cfg op .spi then .spi
  else if permitted cfg op .usbCtrl then .usbCtrl
  else if permitted cfg op .usbStream then .usbStream
  else .spi

/-- A request placed in PENDING, to take its step next. -/
def State.withRequest (s : State) (r : Request) : State :=
  { s.setPending r.caller (some r) with agenda := .take r.caller :: s.agenda }

/-- A transaction of caller 0 placed in its write phase with the given bytes, which the transport transmits in full
next. -/
def State.withTransaction (s : State) (tx : List Byte) : State :=
  { s with
    seqPhase := .write
    seqCtx :=
      { owner := 0#4
        t := someTransport s.cfg (byteAt tx 0)
        op := byteAt tx 0
        cls := opClass (byteAt tx 0)
        tx := tx
        n := respLen s.cfg (byteAt tx 0) s.maskShadow
        mask := s.maskShadow }
    agenda := .txPhase tx.length :: s.agenda }

/-- The instruction of a table word placed where the next step runs it (log 21): a request in PENDING whose caller
steps next, or a transaction in its write phase. -/
def State.withFetchWord (s : State) (nbits w : Nat) : State :=
  match tableSpace w with
  | .request => match requestOfBytes (tableBytes s.cfg nbits w) with
    | .ok r => s.withRequest r
    | .error _ => s
  | .protocol => s.withTransaction (tableBytes s.cfg nbits w)

end Sys2Proof.Machine
end

