-- ==== Sys2Proof/Safety.lean ====
section
/-! DEFINITION. The words the claims use: what an answer to a caller changes, what the end of a transaction changes,
the invariant of the reachable states, and what a safe step is. -/

namespace Sys2Proof

/-- The catalog command a protocol instruction is, none for the request port's and for an unassigned opcode (R130). -/
def Instr.command : Instr → Option Command
  | .setDabP _ _ => some .setDabP
  | .setDabV _ _ => some .setDabV
  | .setTunerOptP _ _ => some .setTunerOptP
  | .setTunerOptV _ _ => some .setTunerOptV
  | .setProcOptP _ _ => some .setProcOptP
  | .setProcOptV _ _ => some .setProcOptV
  | .setTunerReg _ _ => some .setTunerReg
  | .setSerial _ _ => some .setSerial
  | .setPwsConfig _ _ => some .setPwsConfig
  | .setMask _ => some .setMask
  | .setDfuMode _ _ => some .setDfuMode
  | .setDfuBlock _ _ => some .setDfuBlock
  | .getDabP => some .getDabP
  | .getDabV => some .getDabV
  | .getTunerOptP => some .getTunerOptP
  | .getTunerOptV => some .getTunerOptV
  | .getProcOptP => some .getProcOptP
  | .getProcOptV => some .getProcOptV
  | .getSerial => some .getSerial
  | .getPwsStatus => some .getPwsStatus
  | .getVersion => some .getVersion
  | .getDfuMode => some .getDfuMode
  | .getDfuAck => some .getDfuAck
  | .getMaskData => some .getMaskData
  | .getPing => some .getPing
  | .crc32 _ _ | .encode _ _ _ | .decode _ _ _ | .classify _ _ _ | .tick _ _ | .build _ _ | .parse _ _ _
  | .openChannel _ _ | .closeChannel _ | .exec _ _ _ _ | .illegalRequest _ _
  | .unassignedProtocolOpcode _ _ => none

/-- The caller a request-port instruction answers, none for a protocol instruction (R85). -/
def Instr.asker : Instr → Option Caller
  | .crc32 c _ | .encode c _ _ | .decode c _ _ | .classify c _ _ | .tick c _ | .build c _ | .parse c _ _
  | .openChannel c _ | .closeChannel c | .exec c _ _ _ => some c
  | .illegalRequest _ r => some r.caller
  | .setDabP _ _ | .setDabV _ _ | .setTunerOptP _ _ | .setTunerOptV _ _ | .setProcOptP _ _ | .setProcOptV _ _
  | .setTunerReg _ _ | .setSerial _ _ | .setPwsConfig _ _ | .setMask _ | .setDfuMode _ _ | .setDfuBlock _ _
  | .getDabP | .getDabV | .getTunerOptP | .getTunerOptV | .getProcOptP | .getProcOptV | .getSerial | .getPwsStatus
  | .getVersion | .getDfuMode | .getDfuAck | .getMaskData | .getPing
  | .unassignedProtocolOpcode _ _ => none

/-- The operations that do not use the channel (R219). -/
def Instr.nonChannel : Instr → Bool
  | .crc32 _ _ | .encode _ _ _ | .decode _ _ _ | .classify _ _ _ | .tick _ _ | .build _ _ | .parse _ _ _ => true
  | .openChannel _ _ | .closeChannel _ | .exec _ _ _ _ | .illegalRequest _ _
  | .setDabP _ _ | .setDabV _ _ | .setTunerOptP _ _ | .setTunerOptV _ _ | .setProcOptP _ _ | .setProcOptV _ _
  | .setTunerReg _ _ | .setSerial _ _ | .setPwsConfig _ _ | .setMask _ | .setDfuMode _ _ | .setDfuBlock _ _
  | .getDabP | .getDabV | .getTunerOptP | .getTunerOptV | .getProcOptP | .getProcOptV | .getSerial | .getPwsStatus
  | .getVersion | .getDfuMode | .getDfuAck | .getMaskData | .getPing
  | .unassignedProtocolOpcode _ _ => false

namespace Machine

/-- Byte `i` with its bit `j` flipped (R110). -/
def flipBit (b : List Byte) (i j : Nat) : List Byte := b.set i (byteAt b i ^^^ (1#8 <<< j))

/-- Where the record of kind `c` starts in a composite for mask `m` (R58, R79). -/
def offsetOf (cfg : Config) (m : Byte) (c : TKind) : Nat := lenFrom cfg m (TKind.all.takeWhile (· != c))

/-- The bytes of a composite for mask `m` at the place of kind `c`'s record (R79, R181). -/
def recordSlice (cfg : Config) (m : Byte) (c : TKind) (d : List Byte) : List Byte :=
  memRead d (offsetOf cfg m c) (cfg.size c.toKind)

/-- The last four bytes of a byte string are, in little-endian order, the checksum of those before them (R106). -/
abbrev trailerMatches (cfg : Config) (d : List Byte) : Prop :=
  crc32 cfg (memRead d 0 (d.length - 4)) = le32 d (d.length - 4)

/-- A response is given to a caller, and of PENDING only that caller's request leaves (R10, R31). -/
structure Answered (c : Caller) (r : Response) (s t : State) : Prop where
  responses : t.responses = (c, r) :: s.responses
  own : t.pendingOf c = none
  others : ∀ c', c' ≠ c → t.pendingOf c' = s.pendingOf c'

/-- The configuration, the inputs and the model's own counters are as before. -/
structure SameRun (s t : State) : Prop where
  cfg : t.cfg = s.cfg
  agenda : t.agenda = s.agenda
  inputs : t.inputs = s.inputs
  refusedRun : t.refusedRun = s.refusedRun
  freeIdx : t.freeIdx = s.freeIdx

/-- The channel, the sequencer and the mask shadow are as before (R24 to R29). -/
structure SameChannel (s t : State) : Prop where
  chOpen : t.chOpen = s.chOpen
  chLink : t.chLink = s.chLink
  desync : t.desync = s.desync
  seqPhase : t.seqPhase = s.seqPhase
  seqCtx : t.seqCtx = s.seqCtx
  maskShadow : t.maskShadow = s.maskShadow

/-- An operation that answers its caller, leaves `S.CRC_ACC` at `acc`, and changes nothing else (R61). -/
structure OnlyAnswers (c : Caller) (r : Response) (acc : Word) (s t : State) : Prop where
  answered : Answered c r s t
  channel : SameChannel s t
  cnt : t.cnt = s.cnt
  wire : t.wire = s.wire
  crcAcc : t.crcAcc = acc
  run : SameRun s t

/-- A transaction ends: its owner is answered and the sequencer is idle; the channel's link, the counters and the
context are as before (R206, R207, R210). -/
structure Ends (r : Response) (s t : State) : Prop where
  answered : Answered s.seqCtx.owner r s t
  idle : t.seqPhase = .idle
  chOpen : t.chOpen = s.chOpen
  chLink : t.chLink = s.chLink
  seqCtx : t.seqCtx = s.seqCtx
  cnt : t.cnt = s.cnt
  run : SameRun s t

/-- A request is refused: no response, no state change, the request leaves PENDING and the run is flagged (R247, R31). -/
structure OnlyRefuses (c : Caller) (s t : State) : Prop where
  responses : t.responses = s.responses
  own : t.pendingOf c = none
  others : ∀ c', c' ≠ c → t.pendingOf c' = s.pendingOf c'
  flag : t.refusedRun = true
  channel : SameChannel s t
  cnt : t.cnt = s.cnt
  wire : t.wire = s.wire
  crcAcc : t.crcAcc = s.crcAcc
  cfg : t.cfg = s.cfg
  agenda : t.agenda = s.agenda
  inputs : t.inputs = s.inputs
  freeIdx : t.freeIdx = s.freeIdx

/-- The transaction in flight is one EXEC's issue step made (R204, R205): a permitted command on the open link, whose
write-phase bytes are those of its body, with its request still pending. -/
structure InFlight (s : State) (cmd : Command) (d : List Byte) : Prop where
  entry : entry s.cfg s.seqCtx.op = some cmd
  body : d.length = bodyLen s.cfg cmd
  tx : s.seqCtx.tx = issueBytes s.cfg cmd d
  cls : s.seqCtx.cls = opClass s.seqCtx.op
  n : s.seqCtx.n = respLen s.cfg s.seqCtx.op s.maskShadow
  mask : s.seqCtx.mask = s.maskShadow
  chOpen : s.chOpen = true
  link : s.seqCtx.t.link = s.chLink
  permitted : permitted s.cfg s.seqCtx.op s.seqCtx.t = true
  pending : s.pendingOf s.seqCtx.owner = some (requestOf .exec s.seqCtx.owner s.seqCtx.op s.seqCtx.t.id d)
  caller : callerOk s.cfg s.seqCtx.owner = true

/-- The invariant of the reachable states: a well-formed configuration (R8), each pending request under its own
caller's id (R31), `S.SEQ_PHASE` never 3 (R27), a transaction in flight as EXEC made it (R205, R218), and the phase
READ only for a read with bytes to come (R208, R214). -/
structure Inv (s : State) : Prop where
  cfg : s.cfg.wf = true
  keyed : ∀ c r, s.pendingOf c = some r → r.caller = c
  phase : s.seqPhase ≠ .reserved3
  inFlight : s.seqPhase ≠ .idle → ∃ cmd d, InFlight s cmd d
  reading : s.seqPhase = .read → s.seqCtx.cls ≠ .write ∧ s.seqCtx.n ≠ 0

/-- The next step of the transport, if the agenda's next entry is one, keeps its contract: no more bytes than asked
for (R13). -/
def TransportKeepsContract (s : State) : Prop :=
  (∀ m rest, s.agenda = .txPhase m :: rest → m ≤ s.seqCtx.tx.length)
    ∧ (∀ rx rest, s.agenda = .rxPhase rx :: rest → rx.length ≤ s.seqCtx.n)

/-- A safe step: it neither faults nor is refused. -/
def SafeStep (s : State) : Prop := ∃ t, step s = .next t

end Machine

end Sys2Proof
end

