-- ==== Sys2Proof/Certificates/Slice0/Obligations.lean ====
section
/-! DEFINITION. The statements for the provers. Each docstring names the rule of spec/ it formalises, and the
instructions it is about. -/

open Sys2Proof Sys2Proof.Machine

/-! ### The Frame Codec (40_crc_codec.md) -/

/-- R104. CRC32 completes for every byte string: it answers OK with the checksum and changes `S.CRC_ACC` only,
to the register before the final XOR (the model's inference, log 13). -/
def Obligations.Crc32RespondsChecksum : Prop :=
  ∀ (c : Caller) (d : List Byte) (s : State),
    ∃ t, exec (.crc32 c d) s = .next t ∧ OnlyAnswers c ⟨.ok, .crc (crc32 s.cfg d)⟩ (crcReg d) s t

/-- R102: the reference vector and the value the other final XOR would give; with the corner cases of R104. -/
def Obligations.CrcReferenceVector : Prop :=
  ∀ cfg : Config,
    (cfg.crcXorOut = 0x00000000#32 →
      crc32 cfg [0x31#8, 0x32#8, 0x33#8, 0x34#8, 0x35#8, 0x36#8, 0x37#8, 0x38#8, 0x39#8] = 0x0376E6E7#32
        ∧ crc32 cfg [] = 0xFFFFFFFF#32
        ∧ crc32 cfg [0xFF#8, 0xFF#8, 0xFF#8, 0xFF#8] = 0x00000000#32)
    ∧ (cfg.crcXorOut = 0xFFFFFFFF#32 →
      crc32 cfg [0x31#8, 0x32#8, 0x33#8, 0x34#8, 0x35#8, 0x36#8, 0x37#8, 0x38#8, 0x39#8] = 0xFC891918#32)

/-- R103. The algebraic properties of the checksum: the empty string gives the initial value; a checksum appended in
big-endian order leaves the residue zero; appended as a record's trailer it does not (vector V-CRC-15); and every
change of one bit changes the checksum, under every final XOR. -/
def Obligations.CrcAlgebraicProperties : Prop :=
  ∀ (cfg : Config) (b : List Byte),
    (cfg.crcXorOut = 0#32 →
      crc32 cfg [] = 0xFFFFFFFF#32
        ∧ crc32 cfg (b ++ [(crc32 cfg b).extractLsb' 24 8, (crc32 cfg b).extractLsb' 16 8,
            (crc32 cfg b).extractLsb' 8 8, (crc32 cfg b).extractLsb' 0 8]) = 0#32
        ∧ crc32 cfg (encodeRecord cfg [0x01#8, 0x02#8, 0x03#8, 0x04#8]) = 0x69D4E1E8#32)
    ∧ ∀ i j, i < b.length → j < 8 → crc32 cfg (flipBit b i j) ≠ crc32 cfg b

/-- R105. ENCODE completes: a body of the kind's length gives a record of `SIZE[k]` bytes, its own checksum in
little-endian order last (R52); any other length gives SIZE_MISMATCH and no CRC is computed. The value of `S.CRC_ACC` is
the model's inference (log 13). -/
def Obligations.EncodeBuildsRecordOrSizeMismatch : Prop :=
  ∀ (c : Caller) (k : Kind) (d : List Byte) (s : State), s.cfg.wf = true →
    (d.length = s.cfg.size k - 4 →
      (d ++ le32bytes (crc32 s.cfg d)).length = s.cfg.size k
        ∧ ∃ t, exec (.encode c k d) s = .next t
          ∧ OnlyAnswers c ⟨.ok, .bytes (d ++ le32bytes (crc32 s.cfg d))⟩ (crcReg d) s t)
    ∧ (d.length ≠ s.cfg.size k - 4 →
      ∃ t, exec (.encode c k d) s = .next t
        ∧ OnlyAnswers c ⟨.sizeMismatch, .sizes (s.cfg.size k - 4) d.length⟩ s.crcAcc s t)

/-- R106, R107, R108. The values of `S.CRC_ACC` are the model's inference (log 13). DECODE completes: the length is checked first, then the checksum; OK delivers the record with its
body, its trailer and, for a telemetry kind only, selector, counter and payload; no error delivers a record. -/
def Obligations.DecodeChecksLengthThenChecksum : Prop :=
  ∀ (c : Caller) (k : Kind) (d : List Byte) (s : State),
    (d.length ≠ s.cfg.size k →
      ∃ t, exec (.decode c k d) s = .next t
        ∧ OnlyAnswers c ⟨.sizeMismatch, .sizes (s.cfg.size k) d.length⟩ s.crcAcc s t)
    ∧ (d.length = s.cfg.size k → crc32 s.cfg (memRead d 0 (d.length - 4)) ≠ le32 d (d.length - 4) →
      ∃ t, exec (.decode c k d) s = .next t
        ∧ OnlyAnswers c ⟨.checksumError, .checksums (crc32 s.cfg (memRead d 0 (d.length - 4))) (le32 d (d.length - 4))⟩
          (crcReg (memRead d 0 (d.length - 4))) s t)
    ∧ (d.length = s.cfg.size k → crc32 s.cfg (memRead d 0 (d.length - 4)) = le32 d (d.length - 4) →
      ∃ t rec, exec (.decode c k d) s = .next t
        ∧ OnlyAnswers c ⟨.ok, .record rec⟩ (crcReg (memRead d 0 (d.length - 4))) s t
        ∧ rec.kind = k ∧ rec.body = memRead d 0 (d.length - 4) ∧ rec.trailer = le32 d (d.length - 4)
        ∧ (k.isTelemetry = true → rec.telemetry = some ⟨byteAt d 0, le32 d 1, memRead d 5 (d.length - 9)⟩)
        ∧ (k.isTelemetry = false → rec.telemetry = none))

/-- R109. Round trip: DECODE of ENCODE's result answers OK with a record whose body is the body encoded and whose
trailer is its checksum, for every kind, body and pair of callers. -/
def Obligations.DecodeOfEncodedRecordGivesBody : Prop :=
  ∀ (c c' : Caller) (k : Kind) (d : List Byte) (s : State), s.cfg.wf = true → d.length = s.cfg.size k - 4 →
    ∃ t rbytes, exec (.encode c k d) s = .next t ∧ t.responses = (c, ⟨.ok, .bytes rbytes⟩) :: s.responses
      ∧ ∃ u rec, exec (.decode c' k rbytes) t = .next u ∧ u.responses = (c', ⟨.ok, .record rec⟩) :: t.responses
        ∧ rec.kind = k ∧ rec.body = d ∧ rec.trailer = crc32 s.cfg d

/-- R110. A record that ENCODE made, with exactly one bit flipped anywhere in it, decodes as CHECKSUM_ERROR. -/
def Obligations.OneFlippedBitFailsDecode : Prop :=
  ∀ (c c' : Caller) (k : Kind) (d rbytes : List Byte) (s t : State) (i j : Nat),
    s.cfg.wf = true → exec (.encode c k d) s = .next t → t.responses = (c, ⟨.ok, .bytes rbytes⟩) :: s.responses →
    i < rbytes.length → j < 8 →
    ∃ u x y, exec (.decode c' k (flipBit rbytes i j)) t = .next u
      ∧ u.responses = (c', ⟨.checksumError, .checksums x y⟩) :: t.responses

/-! ### The Command Catalog (41_dispatch.md) -/

/-- R71. The class of every opcode, by its value. -/
def Obligations.OpcodeClassByRange : Prop :=
  ∀ op : Byte, (op.toNat < 0x80 → opClass op = .write ∧ (opClass op).code = 0#2)
    ∧ (0x80 ≤ op.toNat → op.toNat < 0xC0 → opClass op = .rread ∧ (opClass op).code = 2#2)
    ∧ (0xC0 ≤ op.toNat → opClass op = .svread ∧ (opClass op).code = 3#2)

/-- R135 (R8 WF6). In a well-formed configuration the opcodes of the persistent sets are, in some order, one block of
consecutive values. -/
def Obligations.PersistentOpcodesAreConsecutive : Prop :=
  ∀ cfg : Config, cfg.wf = true →
    ∃ p, (Config.persistSet.map fun cmd => (cfg.op cmd).toNat).Perm (List.range' p Config.persistSet.length)

/-- R133 with R8 WF7. An opcode of no entry is permitted nowhere; SET_MASK exactly on the streaming endpoint; a DFU
command at most on the control channel. -/
def Obligations.RestrictedCommandsKeepTheirTransport : Prop :=
  ∀ (cfg : Config) (t : Transport), cfg.wf = true →
    (∀ op, entry cfg op = none → permitted cfg op t = false)
    ∧ (permitted cfg (cfg.op .setMask) t = true ↔ t = .usbStream)
    ∧ (∀ cmd, cmd = .setDfuMode ∨ cmd = .setDfuBlock ∨ cmd = .getDfuMode ∨ cmd = .getDfuAck →
        permitted cfg (cfg.op cmd) t = true → t = .usbCtrl)

/-- R164. For every catalog entry, bit 7 of the opcode is clear exactly when the entry is a write, and every
single-value read other than GET_MASK_DATA has a response of one byte. -/
def Obligations.OpcodeConventionHolds : Prop :=
  ∀ (cfg : Config) (cmd : Command) (mask : Byte), cfg.wf = true →
    (cfg.op cmd &&& 0x80#8 = 0#8 ↔ cmd.cls = .write)
    ∧ (cmd.cls = .svread → cmd ≠ .getMaskData → respLen cfg (cfg.op cmd) mask = 1)

/-- R132. The response length of every catalog command. -/
def Obligations.ResponseLengthOfEachCommand : Prop :=
  ∀ (cfg : Config) (cmd : Command) (mask : Byte), cfg.wf = true →
    (cmd.cls = .write → respLen cfg (cfg.op cmd) mask = 0)
    ∧ (∀ k, cmd.resp = .record k → respLen cfg (cfg.op cmd) mask = cfg.size k)
    ∧ (cmd = .getMaskData → respLen cfg (cfg.op cmd) mask = compositeLen cfg mask)
    ∧ (cmd = .getPing → respLen cfg (cfg.op cmd) mask = 1)

/-- R137. CLASSIFY completes for every opcode and transport and changes nothing else: of a catalogued opcode it gives
the entry, of any other `hit = 0`, index and kinds 0xFF, not permitted, length 0. -/
def Obligations.ClassifyReportsTheCatalog : Prop :=
  ∀ (c : Caller) (op : Byte) (t : Transport) (s : State),
    ∃ u r, exec (.classify c op t) s = .next u ∧ OnlyAnswers c ⟨.ok, .classified r⟩ s.crcAcc s u
      ∧ r.cls = (opClass op).code
      ∧ (∀ cmd, entry s.cfg op = some cmd →
          r.hit = true ∧ r.idx.toNat = cmd.idx.val ∧ r.reqk = reqCode cmd.req ∧ r.respk = respCode cmd.resp
            ∧ r.permitted = (s.cfg.cap cmd).has t ∧ r.respLen = respLen s.cfg op s.maskShadow)
      ∧ (entry s.cfg op = none →
          r.hit = false ∧ r.idx = 0xFF#8 ∧ r.reqk = 0xFF#8 ∧ r.respk = 0xFF#8 ∧ r.permitted = false ∧ r.respLen = 0)

/-! ### The multiplexer (42_mux.md) -/

/-- R172. TICK completes: it advances the counter of its kind by one modulo 2^32, answers OK, and changes nothing
else, the other seven counters included. -/
def Obligations.TickAdvancesOneCounter : Prop :=
  ∀ (c : Caller) (k : TKind) (s : State),
    ∃ t, exec (.tick c k) s = .next t
      ∧ (t.counter k).toNat = ((s.counter k).toNat + 1) % 2 ^ 32
      ∧ (∀ k', k' ≠ k → t.counter k' = s.counter k')
      ∧ Answered c ⟨.ok, .none⟩ s t ∧ SameChannel s t ∧ t.wire = s.wire ∧ t.crcAcc = s.crcAcc ∧ SameRun s t

/-- R173, R23. Only the step of a pending TICK request and RESET change a counter. -/
def Obligations.OnlyTickAndResetChangeCounters : Prop :=
  ∀ s t : State, step s = .next t → t.cnt ≠ s.cnt →
    (∃ rest, s.agenda = .reset :: rest)
    ∨ ∃ c rest r k, s.agenda = .take c :: rest ∧ s.pendingOf c = some r ∧ decodeRequest s.cfg r = .tick r.caller k

/-- R176, R179, R180. BUILD completes when every payload it reads has its kind's length: the composite is, for each
enabled kind once and in canonical order, the record of selector, counter and payload; only `S.CRC_ACC` changes. -/
def Obligations.BuildConcatenatesEnabledRecords : Prop :=
  ∀ (c : Caller) (m : Byte) (s : State),
    (∀ k, enabled s.cfg m k = true → s.inputs.src[k.idx].length + 9 = s.cfg.size k.toKind) →
    ∃ t acc, exec (.build c m) s = .next t
      ∧ OnlyAnswers c ⟨.ok, .bytes ((TKind.all.filter fun k => enabled s.cfg m k).flatMap fun k =>
          encodeRecord s.cfg (BitVec.ofNat 8 (s.cfg.kindBit k).val
            :: (le32bytes (s.counter k) ++ s.inputs.src[k.idx])))⟩ acc s t

/-- R175, R247. BUILD is refused when a payload it reads has another length: no response, no state change. The model's
inference: the refusal is a next state whose request has left PENDING and whose run is flagged (log 8), and
`S.CRC_ACC` is kept (log 17). -/
def Obligations.BuildRefusesWrongPayloadLength : Prop :=
  ∀ (c : Caller) (m : Byte) (k : TKind) (s : State),
    enabled s.cfg m k = true → s.inputs.src[k.idx].length + 9 ≠ s.cfg.size k.toKind →
    ∃ t, exec (.build c m) s = .next t ∧ OnlyRefuses c s t

/-- R177, R178. A composite BUILD makes is as long as the sum of the sizes of the enabled kinds, and at most as long as
the composite of all eight. -/
def Obligations.CompositeLengthIsSumOfSizes : Prop :=
  ∀ (c : Caller) (m : Byte) (s t : State) (out : List Byte), s.cfg.wf = true →
    exec (.build c m) s = .next t → t.responses = (c, ⟨.ok, .bytes out⟩) :: s.responses →
    out.length = ((TKind.all.filter fun k => enabled s.cfg m k).map fun k => s.cfg.size k.toKind).sum
      ∧ out.length ≤ compositeLen s.cfg 0xFF#8
      ∧ compositeLen s.cfg 0xFF#8 = (TKind.all.map fun k => s.cfg.size k.toKind).sum

/-- R183. PARSE of what BUILD made answers OK, and its slots are the enabled kinds in canonical order, each with its
selector `KIND_BIT[c]`, the counter BUILD read and the payload of the sample source. -/
def Obligations.ParseOfBuiltCompositeGivesItsRecords : Prop :=
  ∀ (c c' : Caller) (m : Byte) (s t : State) (out : List Byte), s.cfg.wf = true →
    exec (.build c m) s = .next t → t.responses = (c, ⟨.ok, .bytes out⟩) :: s.responses →
    ∃ u slots, exec (.parse c' m out) t = .next u ∧ u.responses = (c', ⟨.ok, .slots slots⟩) :: t.responses
      ∧ slots.map (fun x => (x.kind, x.status, x.record.bind Record.telemetry))
        = (TKind.all.filter fun k => enabled s.cfg m k).map fun k =>
            (k, .ok, some ⟨BitVec.ofNat 8 (s.cfg.kindBit k).val, s.counter k, s.inputs.src[k.idx]⟩)

/-- R181, R182, R242, R250. PARSE completes for every mask and byte string, answers its caller and leaves everything
but `S.CRC_ACC`. Its status by the length of the bytes: fewer than `L(m)` TRUNCATED_COMPOSITE, more SIZE_MISMATCH with
`L(m)` and the length, exactly `L(m)` OK or CHECKSUM_ERROR; and in every case the slots are the enabled kinds in
canonical order. The slot of a kind whose record fits in the bytes holds what DECODE gives its slice: OK with the
record where the trailer is the checksum of the slice's body, CHECKSUM_ERROR with no record where it is not; the slot
of a kind whose record does not fit is TRUNCATED_COMPOSITE with no record. -/
def Obligations.ParseStatusFollowsLength : Prop :=
  ∀ (c : Caller) (m : Byte) (d : List Byte) (s : State),
    ∃ t r acc slots, exec (.parse c m d) s = .next t ∧ OnlyAnswers c r acc s t
      ∧ slots.map Slot.kind = TKind.all.filter (fun k => enabled s.cfg m k)
      ∧ (d.length < compositeLen s.cfg m →
          ∃ k off, enabled s.cfg m k = true ∧ d.length - off < s.cfg.size k.toKind
            ∧ off = offsetOf s.cfg m k ∧ off ≤ d.length
            ∧ r = ⟨.truncatedComposite, .truncated slots k (d.length - off) (s.cfg.size k.toKind)⟩)
      ∧ (compositeLen s.cfg m < d.length →
          r = ⟨.sizeMismatch, .excess slots (compositeLen s.cfg m) d.length⟩)
      ∧ (d.length = compositeLen s.cfg m →
          (r = ⟨.ok, .slots slots⟩ ∧ ∀ x ∈ slots, x.status = .ok)
            ∨ (r = ⟨.checksumError, .slots slots⟩ ∧ ∃ x ∈ slots, x.status = .checksumError))
      ∧ ∀ x ∈ slots,
          (offsetOf s.cfg m x.kind + s.cfg.size x.kind.toKind ≤ d.length →
            (trailerMatches s.cfg (recordSlice s.cfg m x.kind d) →
              x.status = .ok ∧ x.record = some (mkRecord x.kind.toKind (recordSlice s.cfg m x.kind d)))
            ∧ (¬ trailerMatches s.cfg (recordSlice s.cfg m x.kind d) → x.status = .checksumError ∧ x.record = none))
          ∧ (d.length < offsetOf s.cfg m x.kind + s.cfg.size x.kind.toKind →
              x.status = .truncatedComposite ∧ x.record = none)

/-- R182. Two byte strings of length `L(m)` that differ only inside the record of an enabled kind `k` parse to the same
slots for every other kind. -/
def Obligations.ChecksumErrorIsolatedToItsRecord : Prop :=
  ∀ (cfg : Config) (m : Byte) (k : TKind) (acc acc' : Word) (d d' : List Byte) (slots slots' : List Slot)
    (st st' : Status), enabled cfg m k = true →
    d.length = compositeLen cfg m → d'.length = compositeLen cfg m →
    (∀ i, i < offsetOf cfg m k ∨ offsetOf cfg m k + cfg.size k.toKind ≤ i → d[i]? = d'[i]?) →
    (parseComposite cfg m acc d).1 = ⟨st, .slots slots⟩ → (parseComposite cfg m acc' d').1 = ⟨st', .slots slots'⟩ →
    slots.filter (fun x => x.kind != k) = slots'.filter (fun x => x.kind != k)

/-! ### The sequencer at the request port (43_sequencer.md) -/

/-- R201. OPEN completes while no transaction is in flight: the channel is open on the link, `S.DESYNC` is clear, and
nothing else changes, the mask shadow included. -/
def Obligations.OpenEstablishesTheChannel : Prop :=
  ∀ (c : Caller) (l : Link) (s : State), s.seqPhase = .idle →
    ∃ t, exec (.openChannel c l) s = .next t ∧ t.chOpen = true ∧ t.chLink = l ∧ t.desync = false
      ∧ Answered c ⟨.ok, .none⟩ s t ∧ t.maskShadow = s.maskShadow ∧ t.seqPhase = s.seqPhase ∧ t.seqCtx = s.seqCtx
      ∧ t.cnt = s.cnt ∧ t.crcAcc = s.crcAcc ∧ t.wire = s.wire ∧ SameRun s t

/-- R202. CLOSE completes while no transaction is in flight, on an open and on a closed channel: the channel is closed
and `S.DESYNC` clear; nothing else changes. -/
def Obligations.CloseClosesTheChannel : Prop :=
  ∀ (c : Caller) (s : State), s.seqPhase = .idle →
    ∃ t, exec (.closeChannel c) s = .next t ∧ t.chOpen = false ∧ t.desync = false
      ∧ Answered c ⟨.ok, .none⟩ s t ∧ t.chLink = s.chLink ∧ t.maskShadow = s.maskShadow ∧ t.seqPhase = s.seqPhase
      ∧ t.seqCtx = s.seqCtx ∧ t.cnt = s.cnt ∧ t.crcAcc = s.crcAcc ∧ t.wire = s.wire ∧ SameRun s t

/-- R10, R62, R201, R202, R203. While a transaction is in flight, EXEC, OPEN and CLOSE hold: nothing changes, and the
request stays pending. That a hold is a step of its own, the owner's EXEC's in flight included, is the model's inference
(log 18). -/
def Obligations.ChannelOperationsHoldInFlight : Prop :=
  ∀ (c : Caller) (l : Link) (op : Byte) (tr : Transport) (d : List Byte) (s : State),
    s.seqPhase = .write ∨ s.seqPhase = .read →
    exec (.exec c op tr d) s = .next s ∧ exec (.openChannel c l) s = .next s ∧ exec (.closeChannel c) s = .next s

/-- R204, R244, R245. EXEC's checks in their order, with the channel idle: CHANNEL_NOT_OPEN, then
UNSUPPORTED_ON_TRANSPORT, then SIZE_MISMATCH with the length the opcode requires; nothing but the response is left. -/
def Obligations.ExecChecksInOrder : Prop :=
  ∀ (c : Caller) (op : Byte) (tr : Transport) (d : List Byte) (s : State), s.cfg.wf = true → s.seqPhase = .idle →
    (s.chOpen = false →
      ∃ t, exec (.exec c op tr d) s = .next t ∧ OnlyAnswers c ⟨.channelNotOpen, .none⟩ s.crcAcc s t)
    ∧ (s.chOpen = true → tr.link ≠ s.chLink ∨ permitted s.cfg op tr = false →
      ∃ t, exec (.exec c op tr d) s = .next t
        ∧ OnlyAnswers c ⟨.unsupportedOnTransport, .unsupported op tr⟩ s.crcAcc s t)
    ∧ (s.chOpen = true → tr.link = s.chLink → permitted s.cfg op tr = true →
      ∀ cmd need, entry s.cfg op = some cmd →
        ((opClass op ≠ .write ∧ need = 0) ∨ (opClass op = .write ∧ cmd.req = .rawMask ∧ need = 1)
          ∨ (opClass op = .write ∧ ∃ k, cmd.req = .record k ∧ need = s.cfg.size k - 4)) →
        d.length ≠ need →
        ∃ t, exec (.exec c op tr d) s = .next t ∧ OnlyAnswers c ⟨.sizeMismatch, .sizes need d.length⟩ s.crcAcc s t)

/-- R205. EXEC completes its issue step when every check passes: the phase is WRITE and the context is the
transaction's, its bytes the opcode and, for a write, the raw mask or the record of the body; the request stays
pending, and nothing else changes but `S.CRC_ACC`. The clauses on `S.CRC_ACC` are the model's inference from R30 and
R101 (logs 13 and 14). -/
def Obligations.ExecEntersTheWritePhase : Prop :=
  ∀ (c : Caller) (op : Byte) (tr : Transport) (d : List Byte) (cmd : Command) (s : State), s.seqPhase = .idle →
    s.chOpen = true → tr.link = s.chLink → entry s.cfg op = some cmd → permitted s.cfg op tr = true →
    d.length = bodyLen s.cfg cmd →
    ∃ t tx, exec (.exec c op tr d) s = .next t ∧ t.seqPhase = .write
      ∧ t.seqCtx = ⟨c, tr, op, opClass op, tx, respLen s.cfg op s.maskShadow, s.maskShadow⟩
      ∧ (cmd.req = .none → tx = [op] ∧ t.crcAcc = s.crcAcc)
      ∧ (cmd.req = .rawMask → tx = op :: d ∧ t.crcAcc = s.crcAcc)
      ∧ (∀ k, cmd.req = .record k → tx = op :: (d ++ le32bytes (crc32 s.cfg d)) ∧ t.crcAcc = crcReg d)
      ∧ t.pending = s.pending ∧ t.responses = s.responses ∧ t.wire = s.wire ∧ t.cnt = s.cnt ∧ t.chOpen = s.chOpen
      ∧ t.chLink = s.chLink ∧ t.desync = s.desync ∧ t.maskShadow = s.maskShadow ∧ SameRun s t

/-! ### The transport's steps of a transaction (43_sequencer.md, 41_dispatch.md R139 to R163) -/

/-- R206, R207. SET_DAB_P, SET_DAB_V, SET_TUNER_OPT_P, SET_TUNER_OPT_V, SET_PROC_OPT_P, SET_PROC_OPT_V, SET_TUNER_REG,
SET_SERIAL, SET_PWS_CONFIG, SET_DFU_MODE and SET_DFU_BLOCK complete when the transport transmits every byte: OK to the
owner, the sequencer idle, nothing else changed. -/
def Obligations.RecordWritesCompleteWithOk : Prop :=
  ∀ (i : Instr) (cmd : Command) (k : Kind) (s : State), i.command = some cmd → cmd.req = .record k →
    s.seqPhase = .write → s.inputs.txCount = (encodeInstr s.cfg i).length →
    ∃ t, exec i s = .next t ∧ Ends ⟨.ok, .none⟩ s t ∧ t.desync = s.desync ∧ t.maskShadow = s.maskShadow
      ∧ t.crcAcc = s.crcAcc
      ∧ t.wire = .tx s.seqCtx.t (encodeInstr s.cfg i) s.inputs.txCount :: s.wire

/-- R148, R207. SET_MASK completes when both its bytes are transmitted: `S.MASK_SHADOW` takes the mask. -/
def Obligations.SetMaskLoadsTheShadow : Prop :=
  ∀ (m : Byte) (s : State), s.seqPhase = .write → s.inputs.txCount = 2 →
    ∃ t, exec (.setMask m) s = .next t ∧ t.maskShadow = m ∧ Ends ⟨.ok, .none⟩ s t ∧ t.desync = s.desync
      ∧ t.crcAcc = s.crcAcc ∧ t.wire = .tx s.seqCtx.t [s.cfg.op .setMask, m] 2 :: s.wire

/-- R206, R208. GET_DAB_P, GET_DAB_V, GET_TUNER_OPT_P, GET_TUNER_OPT_V, GET_PROC_OPT_P, GET_PROC_OPT_V, GET_SERIAL,
GET_PWS_STATUS, GET_VERSION, GET_DFU_MODE, GET_DFU_ACK, GET_MASK_DATA and GET_PING enter the read phase when their
opcode byte is transmitted and there are bytes to read; nothing else changes. -/
def Obligations.ReadsEnterTheReadPhase : Prop :=
  ∀ (i : Instr) (cmd : Command) (s : State), i.command = some cmd → cmd.cls ≠ .write →
    s.seqPhase = .write → s.inputs.txCount = 1 → s.seqCtx.n ≠ 0 →
    ∃ t, exec i s = .next t ∧ t.seqPhase = .read ∧ t.wire = .tx s.seqCtx.t [s.cfg.op cmd] 1 :: s.wire
      ∧ t.seqCtx = s.seqCtx ∧ t.pending = s.pending ∧ t.responses = s.responses ∧ t.cnt = s.cnt
      ∧ t.chOpen = s.chOpen ∧ t.chLink = s.chLink ∧ t.desync = s.desync ∧ t.maskShadow = s.maskShadow
      ∧ t.crcAcc = s.crcAcc ∧ SameRun s t

/-- R210, R211. The eleven record reads (GET_DAB_P, GET_DAB_V, GET_TUNER_OPT_P, GET_TUNER_OPT_V, GET_PROC_OPT_P,
GET_PROC_OPT_V, GET_SERIAL, GET_PWS_STATUS, GET_VERSION, GET_DFU_MODE, GET_DFU_ACK) complete when the record's bytes
all arrive: OK with the record, or CHECKSUM_ERROR with both values; `S.DESYNC` is unchanged in both cases.
The value of `S.CRC_ACC` is the model's inference (log 13). -/
def Obligations.RecordReadsAnswerWithTheRecord : Prop :=
  ∀ (i : Instr) (cmd : Command) (k : Kind) (s : State), i.command = some cmd → cmd.resp = .record k →
    s.seqPhase = .read → s.seqCtx.n = s.cfg.size k → s.inputs.rx.length = s.cfg.size k →
    ∃ t, exec i s = .next t
      ∧ (crc32 s.cfg (memRead s.inputs.rx 0 (s.cfg.size k - 4)) = le32 s.inputs.rx (s.cfg.size k - 4) →
          Ends ⟨.ok, .record (mkRecord k s.inputs.rx)⟩ s t)
      ∧ (crc32 s.cfg (memRead s.inputs.rx 0 (s.cfg.size k - 4)) ≠ le32 s.inputs.rx (s.cfg.size k - 4) →
          Ends ⟨.checksumError, .checksums (crc32 s.cfg (memRead s.inputs.rx 0 (s.cfg.size k - 4)))
            (le32 s.inputs.rx (s.cfg.size k - 4))⟩ s t)
      ∧ t.desync = s.desync ∧ t.maskShadow = s.maskShadow
      ∧ t.crcAcc = crcReg (memRead s.inputs.rx 0 (s.cfg.size k - 4))
      ∧ (∃ fill, t.wire = .rx s.seqCtx.t s.seqCtx.n fill s.inputs.rx :: s.wire)

/-- R212. GET_MASK_DATA completes when the composite's bytes all arrive: OK or CHECKSUM_ERROR, never
TRUNCATED_COMPOSITE or SIZE_MISMATCH, with the slots PARSE gives for the mask of the context. -/
def Obligations.MaskDataAnswersWithItsSlots : Prop :=
  ∀ s : State, s.seqPhase = .read → s.seqCtx.n = compositeLen s.cfg s.seqCtx.mask →
    s.inputs.rx.length = s.seqCtx.n →
    ∃ t st slots, exec .getMaskData s = .next t ∧ (st = .ok ∨ st = .checksumError)
      ∧ (parseComposite s.cfg s.seqCtx.mask s.crcAcc s.inputs.rx).1 = ⟨st, .slots slots⟩
      ∧ slots.map Slot.kind = TKind.all.filter (fun k => enabled s.cfg s.seqCtx.mask k)
      ∧ Ends ⟨st, .slots slots⟩ s t ∧ t.desync = s.desync ∧ t.maskShadow = s.maskShadow
      ∧ ∃ fill, t.wire = .rx s.seqCtx.t s.seqCtx.n fill s.inputs.rx :: s.wire

/-- R214. With an empty mask GET_MASK_DATA ends in its write-phase step with the empty slot list, and makes no
read-phase transfer. -/
def Obligations.EmptyMaskDataNeedsNoReadPhase : Prop :=
  ∀ s : State, s.seqPhase = .write → s.seqCtx.n = 0 → s.seqCtx.mask = 0#8 → s.inputs.txCount = 1 →
    ∃ t, exec .getMaskData s = .next t ∧ Ends ⟨.ok, .slots []⟩ s t
      ∧ t.wire = .tx s.seqCtx.t [s.cfg.op .getMaskData] 1 :: s.wire
      ∧ t.desync = s.desync ∧ t.maskShadow = s.maskShadow ∧ t.crcAcc = s.crcAcc

/-- R213, R163. GET_PING completes with the one byte received, whatever it is, unchecked. -/
def Obligations.PingAnswersWithItsByte : Prop :=
  ∀ (b : Byte) (s : State), s.seqPhase = .read → s.seqCtx.n = 1 → s.inputs.rx = [b] →
    ∃ t, exec .getPing s = .next t ∧ Ends ⟨.ok, .value b⟩ s t ∧ t.desync = s.desync
      ∧ t.maskShadow = s.maskShadow ∧ t.crcAcc = s.crcAcc
      ∧ ∃ fill, t.wire = .rx s.seqCtx.t 1 fill [b] :: s.wire

/-- R206, R243, R251. A short write phase of any of the 25 commands ends the transaction with SHORT_TRANSFER, sets
`S.DESYNC` and leaves the mask shadow. -/
def Obligations.ShortWritePhaseDesynchronises : Prop :=
  ∀ (i : Instr) (cmd : Command) (s : State), i.command = some cmd → s.seqPhase = .write →
    s.inputs.txCount < (encodeInstr s.cfg i).length →
    ∃ t, exec i s = .next t
      ∧ Ends ⟨.shortTransfer, .short .write s.inputs.txCount (encodeInstr s.cfg i).length⟩ s t
      ∧ t.desync = true ∧ t.maskShadow = s.maskShadow ∧ t.crcAcc = s.crcAcc
      ∧ t.wire = .tx s.seqCtx.t (encodeInstr s.cfg i) s.inputs.txCount :: s.wire

/-- R210, R243, R251. A short read phase of any of the 13 read commands ends the transaction with SHORT_TRANSFER, sets
`S.DESYNC`, and delivers none of the bytes. -/
def Obligations.ShortReadPhaseDesynchronises : Prop :=
  ∀ (i : Instr) (cmd : Command) (s : State), i.command = some cmd → cmd.cls ≠ .write → s.seqPhase = .read →
    s.inputs.rx.length < s.seqCtx.n →
    ∃ t, exec i s = .next t ∧ Ends ⟨.shortTransfer, .short .read s.inputs.rx.length s.seqCtx.n⟩ s t
      ∧ t.desync = true ∧ t.maskShadow = s.maskShadow ∧ t.crcAcc = s.crcAcc

/-- R209. In a read phase, short or full, of any of the 13 read commands the block transmits as many zero bytes as it
asks for on the SPI link, and nothing on the USB link. -/
def Obligations.ReadPhaseFillsOnlyOnSpi : Prop :=
  ∀ (i : Instr) (cmd : Command) (s : State), i.command = some cmd → cmd.cls ≠ .write → s.seqPhase = .read →
    s.inputs.rx.length ≤ s.seqCtx.n →
    ∃ t fill, exec i s = .next t ∧ t.wire = .rx s.seqCtx.t s.seqCtx.n fill s.inputs.rx :: s.wire
      ∧ (s.seqCtx.t = .spi → fill = List.replicate s.seqCtx.n 0#8)
      ∧ (s.seqCtx.t = .usbCtrl ∨ s.seqCtx.t = .usbStream → fill = [])

/-- Where the 25 commands and the channel operations stop by name (the model's choices, logs 11 and 12; 93 U23 for the
encoding 3 of `S.SEQ_PHASE`): a transport that reports more bytes than asked for is refused (R13 with D33 excludes it);
with the phase at 3 all of them fault; a command run with no transaction in flight, or a write command in the phase
READ, faults. -/
def Obligations.StopsAreNamed : Prop :=
  ∀ (i : Instr) (cmd : Command) (c : Caller) (l : Link) (op : Byte) (tr : Transport) (d : List Byte) (s : State),
    i.command = some cmd →
    (s.seqPhase = .write → (encodeInstr s.cfg i).length < s.inputs.txCount → exec i s = .refused .transportOverrun)
    ∧ (cmd.cls ≠ .write → s.seqPhase = .read → s.seqCtx.n < s.inputs.rx.length →
        exec i s = .refused .transportOverrun)
    ∧ (s.seqPhase = .reserved3 →
        exec i s = .fault .reservedPhase ∧ exec (.openChannel c l) s = .fault .reservedPhase
          ∧ exec (.closeChannel c) s = .fault .reservedPhase ∧ exec (.exec c op tr d) s = .fault .reservedPhase)
    ∧ (s.seqPhase = .idle ∨ (s.seqPhase = .read ∧ cmd.cls = .write) → exec i s = .fault .wrongPhase)

/-- R91. An opcode no catalog entry takes: EXEC answers UNSUPPORTED_ON_TRANSPORT on an open idle channel with no byte
transferred; the unassigned opcode itself, run in a write phase, answers its owner so and transfers nothing (log 16). -/
def Obligations.UnassignedOpcodeIsUnsupported : Prop :=
  ∀ (c : Caller) (op : Byte) (tr : Transport) (d req : List Byte) (s : State), entry s.cfg op = none →
    (s.seqPhase = .idle → s.chOpen = true →
      ∃ t, exec (.exec c op tr d) s = .next t
        ∧ OnlyAnswers c ⟨.unsupportedOnTransport, .unsupported op tr⟩ s.crcAcc s t)
    ∧ (s.seqPhase = .write →
      ∃ t, exec (.unassignedProtocolOpcode op req) s = .next t
        ∧ Ends ⟨.unsupportedOnTransport, .unsupported op s.seqCtx.t⟩ s t ∧ t.wire = s.wire ∧ t.desync = s.desync
        ∧ t.maskShadow = s.maskShadow ∧ t.crcAcc = s.crcAcc)

/-! ### The whole machine -/

/-- R90, R247. The requests of R90's list, and no others, decode as illegal; an illegal request is refused: no
response and no state change. That the refusal is a next state, whose request has left PENDING (R31) and whose run is
flagged, is the model's inference (log 8). -/
def Obligations.IllegalRequestsAreRefused : Prop :=
  ∀ (r : Request) (s : State),
    ((s.cfg.nCallers ≤ r.caller.toNat ∨ r.opc = 0x00#8 ∨ 0x0A < r.opc.toNat
        ∨ ((r.opc = 0x02#8 ∨ r.opc = 0x03#8) ∧ 18 < r.a.toNat)
        ∨ (r.opc = 0x05#8 ∧ 7 < r.a.toNat)
        ∨ (r.opc = 0x08#8 ∧ 1 < r.a.toNat)
        ∨ ((r.opc = 0x04#8 ∨ r.opc = 0x0A#8) ∧ 2 < r.b.toNat)
        ∨ ((r.opc = 0x01#8 ∨ r.opc = 0x09#8) ∧ r.a ≠ 0#8)
        ∨ (r.opc ≠ 0x04#8 ∧ r.opc ≠ 0x0A#8 ∧ r.b ≠ 0#8)
        ∨ ((r.opc = 0x04#8 ∨ r.opc = 0x05#8 ∨ r.opc = 0x06#8 ∨ r.opc = 0x08#8 ∨ r.opc = 0x09#8) ∧ r.d ≠ []))
      ↔ ∃ why, decodeRequest s.cfg r = .illegalRequest why r)
    ∧ ∀ why, ∃ t, exec (.illegalRequest why r) s = .next t ∧ OnlyRefuses r.caller s t

/-- The model's own wiring, not a rule of the spec: the step of a pending request whose bytes (in the layout of log 1)
decode to `i` is `exec i`; the transport's step of a transaction whose write-phase bytes decode to `i` is `exec i` with
the transport's answer at the inputs (logs 2 and 6); each with the agenda's entry taken off (log 5). It is how the model
takes the steps that R59, R206 and R210 describe. -/
def Obligations.StepRunsTheDecodedInstruction : Prop :=
  ∀ (s : State) (i : Instr) (rest : List Event), s.cfg.wf = true →
    (∀ c r, s.agenda = .take c :: rest → s.pendingOf c = some r →
      decodeBytes s.cfg .request (bytesOfRequest r) = .ok i → step s = exec i { s with agenda := rest })
    ∧ (∀ m, s.agenda = .txPhase m :: rest → s.seqPhase = .write → decodeBytes s.cfg .protocol s.seqCtx.tx = .ok i →
      step s = exec i { s with agenda := rest, inputs := { s.inputs with txCount := m } })
    ∧ (∀ rx, s.agenda = .rxPhase rx :: rest → s.seqPhase = .read →
      decodeBytes s.cfg .protocol s.seqCtx.tx = .ok i →
      step s = exec i { s with agenda := rest, inputs := { s.inputs with rx := rx } })

/-- R31. A request enters PENDING under its caller's id when it is issued; a caller already blocked issues nothing
(R6); nothing else changes. That issuing is an entry of the agenda is the model's choice (log 5). -/
def Obligations.IssuedRequestEntersPending : Prop :=
  ∀ (s : State) (r : Request) (rest : List Event), s.cfg.wf = true → s.agenda = .issue r :: rest →
    ∃ t, step s = .next t
      ∧ (s.pendingOf r.caller = none → t.pendingOf r.caller = some r)
      ∧ (∀ q, s.pendingOf r.caller = some q → t.pendingOf r.caller = some q)
      ∧ (∀ c, c ≠ r.caller → t.pendingOf c = s.pendingOf c)
      ∧ { t with pending := s.pending, agenda := s.agenda } = s

/-- R270, R271. The RESET event: the table of R36 for every element it fixes, PENDING dropped without a response, the
configuration and what went out on the ports unchanged. The model's own clauses: the inputs and the run's flag are
unchanged and the agenda goes on (log 24), no byte of a phase that is cut is logged (log 26), and the requests dropped
set no flag (log 27). -/
def Obligations.ResetEventAppliesTheTable : Prop :=
  ∀ (s : State) (rest : List Event), s.cfg.wf = true → s.agenda = .reset :: rest →
    ∃ t, step s = .next t ∧ (∀ k, t.counter k = 0#32) ∧ t.chOpen = false ∧ t.desync = false ∧ t.seqPhase = .idle
      ∧ t.maskShadow = 0#8 ∧ (∀ c, t.pendingOf c = none) ∧ t.responses = s.responses ∧ t.wire = s.wire
      ∧ t.cfg = s.cfg ∧ t.inputs = s.inputs ∧ t.refusedRun = s.refusedRun ∧ t.agenda = rest

/-- R36. The state after reset, over every configuration, for every element the table gives a value. -/
def Obligations.ResetStateHoldsTheTable : Prop :=
  ∀ cfg : Config, (∀ k, (State.resetWith cfg).counter k = 0#32) ∧ (State.resetWith cfg).chOpen = false
    ∧ (State.resetWith cfg).desync = false ∧ (State.resetWith cfg).seqPhase = .idle
    ∧ (State.resetWith cfg).maskShadow = 0#8 ∧ (∀ c, (State.resetWith cfg).pendingOf c = none)

/-- R8, R275. Over a configuration that is not well-formed no step has a meaning: the model, whose configuration
stands in the state, refuses the step where R8 refuses the instance (the model's choice, log 15). -/
def Obligations.IllFormedConfigurationIsRefused : Prop :=
  ∀ s : State, s.cfg.wf = false → step s = .refused .illFormedConfiguration

/-- A few words written out from the encodings of R81 and R86 (under TVCFG, and log 1's byte order of a request) decode
to their instructions. -/
def Obligations.WrittenWordsDecode : Prop :=
  decodeBytes Config.tvcfg .request [0x05#8, 0x07#8, 0x00#8, 0x01#8] = .ok (.tick 1#4 .tick)
    ∧ decodeBytes Config.tvcfg .request [0x0A#8, 0x30#8, 0x02#8, 0x00#8, 0x41#8] = .ok (.exec 0#4 0x30#8 .usbStream [0x41#8])
    ∧ decodeBytes Config.tvcfg .protocol [0x30#8, 0x41#8] = .ok (.setMask 0x41#8)
    ∧ decodeBytes Config.tvcfg .protocol
        [0x01#8, 0x01#8, 0x02#8, 0x03#8, 0x04#8, 0xCD#8, 0x37#8, 0x37#8, 0x79#8]
      = .ok (.setDabP [0x01#8, 0x02#8, 0x03#8, 0x04#8] 0x793737CD#32)
    ∧ decodeBytes Config.tvcfg .protocol [0xC1#8] = .ok .getPing

/-- R81, R83, R86. Decode and encode agree: every well-formed instruction, with every operand it admits, is what its
bytes decode to. The byte layout of a request is the model's choice (log 1). -/
def Obligations.DecodeOfEncodeIsTheInstruction : Prop :=
  ∀ (cfg : Config) (i : Instr), cfg.wf = true → i.wf cfg = true →
    decodeBytes cfg i.space (encodeInstr cfg i) = .ok i

/-- R72, R81, R83, R86. The other direction: bytes that decode are the bytes of the instruction they decode to, so no
bit of them is ignored. The byte layout of a request is the model's choice (log 1). -/
def Obligations.EncodeOfDecodeIsTheBytes : Prop :=
  ∀ (cfg : Config) (sp : Space) (bs : List Byte) (i : Instr), cfg.wf = true → decodeBytes cfg sp bs = .ok i →
    encodeInstr cfg i = bs ∧ i.space = sp

/-- Every step keeps the invariant of the reachable states (R8, R27, R31, R205, R218). -/
def Obligations.StepKeepsTheInvariant : Prop :=
  ∀ s t : State, Inv s → step s = .next t → Inv t

/-- The invariant holds at reset, over every well-formed configuration. -/
def Obligations.ResetMeetsTheInvariant : Prop :=
  (∀ cfg : Config, cfg.wf = true → Inv (State.resetWith cfg)) ∧ Inv State.reset

/-- No stop in a reachable state: where the invariant holds and the transport keeps its contract (R13), a step answers
a next state, whatever entry of the agenda comes next. An error is a response (R251). The model's choices: a refused
request (an illegal one, or a BUILD of a broken contract) is a next state too (log 8), and so are an entry that is not
enabled, which is skipped, and an empty agenda, which waits (log 5). -/
def Obligations.InvariantStatesStep : Prop :=
  ∀ s : State, Inv s → TransportKeepsContract s → SafeStep s

/-- R218, R62. Between a transaction's issue step and its response no other transaction begins and the channel is not
opened or closed: a step from a phase in flight leaves the context, the link and the mask shadow and at most moves WRITE
to READ, or it ends the transaction, by the owner's response or by RESET. -/
def Obligations.TransactionRunsAlone : Prop :=
  ∀ s t : State, Inv s → step s = .next t → s.seqPhase ≠ .idle →
    (t.seqPhase ≠ .idle →
      t.seqCtx = s.seqCtx ∧ t.chOpen = s.chOpen ∧ t.chLink = s.chLink ∧ t.maskShadow = s.maskShadow
        ∧ (t.seqPhase = s.seqPhase ∨ (s.seqPhase = .write ∧ t.seqPhase = .read)))
    ∧ (t.seqPhase = .idle →
      (∃ rest, s.agenda = .reset :: rest) ∨ ∃ r, t.responses = (s.seqCtx.owner, r) :: s.responses)

/-- R84, R31. A step gives at most one response, and in a reachable state only to a caller with a pending request,
which then leaves PENDING. -/
def Obligations.ResponsesAnswerPendingRequests : Prop :=
  ∀ s t : State, Inv s → step s = .next t →
    t.responses = s.responses
    ∨ ∃ c r q, t.responses = (c, r) :: s.responses ∧ s.pendingOf c = some q ∧ t.pendingOf c = none

/-- R29, R251. Only a SET_MASK whose write phase completes in full, and RESET, change the mask shadow. -/
def Obligations.OnlySetMaskAndResetChangeTheShadow : Prop :=
  ∀ s t : State, step s = .next t → t.maskShadow ≠ s.maskShadow →
    (∃ rest, s.agenda = .reset :: rest)
    ∨ ∃ m rest, s.agenda = .txPhase 2 :: rest ∧ s.seqPhase = .write
        ∧ decodeWire s.cfg s.seqCtx.tx = .ok (.setMask m) ∧ t.maskShadow = m

/-- R25. `S.DESYNC` is set only by a step that answers SHORT_TRANSFER, and cleared only by OPEN, CLOSE and RESET. -/
def Obligations.DesyncFollowsShortTransfers : Prop :=
  ∀ s t : State, step s = .next t → t.desync ≠ s.desync →
    (t.desync = true ∧ ∃ p m n, t.responses = (s.seqCtx.owner, ⟨.shortTransfer, .short p m n⟩) :: s.responses)
    ∨ (t.desync = false ∧ ∃ rest, s.agenda = .reset :: rest)
    ∨ (t.desync = false ∧ ∃ c rest r, s.agenda = .take c :: rest ∧ s.pendingOf c = some r
        ∧ ((∃ l, decodeRequest s.cfg r = .openChannel r.caller l) ∨ decodeRequest s.cfg r = .closeChannel r.caller))

/-- R251, R31. What an error leaves behind: after a step that answers with a status other than OK the counters, the
channel, the context, the mask shadow, the run's flag and every other caller's entry of PENDING are as before;
SHORT_TRANSFER leaves `S.DESYNC` set and the sequencer idle, every other error leaves `S.DESYNC` as it was. An error of
a transport step ends the transaction, with `S.SEQ_PHASE` IDLE, and an EXEC's at its issue step leaves it IDLE (R204).
An error at the request port leaves `S.SEQ_PHASE` as it was: for ENCODE, DECODE and PARSE this is the model's reading of
R251 by R61 and R219, since they may answer while another caller's transaction is in flight and do not use the
channel (log 28). -/
def Obligations.ErrorsLeaveOnlyDesync : Prop :=
  ∀ (s t : State) (c : Caller) (r : Response), step s = .next t → t.responses = (c, r) :: s.responses →
    r.status ≠ .ok →
    t.cnt = s.cnt ∧ t.chOpen = s.chOpen ∧ t.chLink = s.chLink ∧ t.seqCtx = s.seqCtx ∧ t.maskShadow = s.maskShadow
      ∧ t.cfg = s.cfg ∧ t.refusedRun = s.refusedRun
      ∧ t.pendingOf c = none ∧ (∀ c', c' ≠ c → t.pendingOf c' = s.pendingOf c')
      ∧ (r.status = .shortTransfer → t.desync = true ∧ t.seqPhase = .idle)
      ∧ (r.status ≠ .shortTransfer → t.desync = s.desync)
      ∧ (∀ a rest, s.agenda = .take a :: rest → t.seqPhase = s.seqPhase)
      ∧ (∀ a rest q op tr d, s.agenda = .take a :: rest → s.pendingOf a = some q →
          decodeRequest s.cfg q = .exec q.caller op tr d → t.seqPhase = .idle)
      ∧ (∀ m rest, s.agenda = .txPhase m :: rest → t.seqPhase = .idle)
      ∧ (∀ rx rest, s.agenda = .rxPhase rx :: rest → t.seqPhase = .idle)

/-- R219. CRC32, ENCODE, DECODE, CLASSIFY, TICK, BUILD and PARSE never hold and read no sequencer state: in every state
they answer a next state, and the same one but for the phase and the context whatever those are. That a BUILD over a
payload of the wrong length, which is refused, answers a next state as well is the model's inference (log 8). -/
def Obligations.NonChannelOperationsIgnoreTheSequencer : Prop :=
  ∀ (i : Instr) (s : State) (p : SeqPhase) (x : SeqCtx), i.nonChannel = true →
    ∃ t, exec i s = .next t ∧ t.seqPhase = s.seqPhase ∧ t.seqCtx = s.seqCtx
      ∧ exec i { s with seqPhase := p, seqCtx := x } = .next { t with seqPhase := p, seqCtx := x }

/-- R30. `S.CRC_ACC` is hidden: a step from the same state with another value in it does the same, but for what that
register holds afterwards. -/
def Obligations.CrcRegisterIsUnobservable : Prop :=
  ∀ (s t : State) (v : Word), step s = .next t →
    ∃ t', step { s with crcAcc := v } = .next t' ∧ { t' with crcAcc := t.crcAcc } = t

/-- R26. While the channel is closed and no transaction is in flight, the value of `S.CH_LINK` is read by no rule. -/
def Obligations.ClosedLinkIsUnobservable : Prop :=
  ∀ (s t : State) (l : Link), s.chOpen = false → s.seqPhase = .idle → step s = .next t →
    ∃ t', step { s with chLink := l } = .next t' ∧ { t' with chLink := t.chLink } = t

/-- R204 to R207, R81. A whole write transaction: from an idle open channel with an EXEC of a record write pending, the
caller's step and the transport's full write phase answer OK and put exactly the opcode, the body and its checksum on
the transport. -/
def Obligations.RecordWriteTransactionRuns : Prop :=
  ∀ (s : State) (c : Caller) (tr : Transport) (cmd : Command) (k : Kind) (d : List Byte) (rest : List Event),
    Inv s → s.seqPhase = .idle → s.chOpen = true → tr.link = s.chLink → callerOk s.cfg c = true →
    cmd.req = .record k → (s.cfg.cap cmd).has tr = true → d.length = s.cfg.size k - 4 →
    s.pendingOf c = some ⟨c, 0x0A#8, s.cfg.op cmd, tr.id, d⟩ →
    s.agenda = .take c :: .txPhase (s.cfg.size k + 1) :: rest →
    ∃ t, Host.Core.run core 2 s = .next t ∧ t.responses = (c, ⟨.ok, .none⟩) :: s.responses
      ∧ t.wire = .tx tr (s.cfg.op cmd :: (d ++ le32bytes (crc32 s.cfg d))) (s.cfg.size k + 1) :: s.wire
      ∧ t.pendingOf c = none ∧ t.seqPhase = .idle ∧ t.desync = s.desync ∧ t.maskShadow = s.maskShadow
      ∧ t.agenda = rest

/-- R204 to R211, R81. A whole read transaction: the caller's step, the transport's write phase of the opcode byte and
its full read phase answer OK with the body of the record the device sent. -/
def Obligations.RecordReadTransactionRuns : Prop :=
  ∀ (s : State) (c : Caller) (tr : Transport) (cmd : Command) (k : Kind) (body : List Byte) (rest : List Event),
    Inv s → s.seqPhase = .idle → s.chOpen = true → tr.link = s.chLink → callerOk s.cfg c = true →
    cmd.resp = .record k → (s.cfg.cap cmd).has tr = true → body.length = s.cfg.size k - 4 →
    s.pendingOf c = some ⟨c, 0x0A#8, s.cfg.op cmd, tr.id, []⟩ →
    s.agenda = .take c :: .txPhase 1 :: .rxPhase (body ++ le32bytes (crc32 s.cfg body)) :: rest →
    ∃ t rec fill, Host.Core.run core 3 s = .next t ∧ t.responses = (c, ⟨.ok, .record rec⟩) :: s.responses
      ∧ rec.kind = k ∧ rec.body = body
      ∧ t.wire = .rx tr (s.cfg.size k) fill (body ++ le32bytes (crc32 s.cfg body))
          :: .tx tr [s.cfg.op cmd] 1 :: s.wire
      ∧ t.pendingOf c = none ∧ t.seqPhase = .idle ∧ t.desync = s.desync ∧ t.agenda = rest
end

