-- ==== Sys2Proof/Laws/Bytes.lean ====
section
/-! SUPPORT. Laws of byte strings, of the little-endian accesses (R9, R57) and of the CRC register (R101, R103). -/

namespace Sys2Proof.Machine

@[simp] theorem zeros_length (n : Nat) : (zeros n).length = n := by simp [zeros]

@[simp] theorem le32bytes_length (v : Word) : (le32bytes v).length = 4 := rfl

theorem byteAt_append_left {a : List Byte} (b : List Byte) {i : Nat} (h : i < a.length) :
    byteAt (a ++ b) i = byteAt a i := by
  simp [byteAt, List.getD_eq_getElem?_getD, List.getElem?_append_left h]

theorem byteAt_append_right (a b : List Byte) (i : Nat) : byteAt (a ++ b) (a.length + i) = byteAt b i := by
  simp [byteAt, List.getD_eq_getElem?_getD, List.getElem?_append_right]

theorem memRead_length (b : List Byte) (o n : Nat) : (memRead b o n).length = min n (b.length - o) := by
  simp [memRead]

theorem memRead_append_left (a b : List Byte) : memRead (a ++ b) 0 a.length = a := by
  simp [memRead]

theorem memRead_append_mid (a b c : List Byte) : memRead (a ++ (b ++ c)) a.length b.length = b := by
  simp [memRead]

/-- The four bytes of a word joined again (R9). -/
theorem word_of_bytes (v : Word) :
    (v.extractLsb' 0 8).zeroExtend 32 ||| ((v.extractLsb' 8 8).zeroExtend 32 <<< 8)
      ||| ((v.extractLsb' 16 8).zeroExtend 32 <<< 16) ||| ((v.extractLsb' 24 8).zeroExtend 32 <<< 24) = v := by
  apply BitVec.eq_of_getLsbD_eq
  intro i hi
  simp only [BitVec.getLsbD_or, BitVec.getLsbD_shiftLeft, BitVec.getLsbD_setWidth, BitVec.getLsbD_extractLsb', hi,
    decide_true, Bool.true_and]
  rcases (by omega : i < 8 ∨ (8 ≤ i ∧ i < 16) ∨ (16 ≤ i ∧ i < 24) ∨ (24 ≤ i ∧ i < 32)) with h | h | h | h
  · have : ¬ 8 ≤ i := by omega
    simp [h, show i < 16 by omega, show i < 24 by omega]
  · have e : 8 + (i - 8) = i := by omega
    simp [h, e, show ¬ i < 8 by omega, show i < 24 by omega, show i - 8 < 8 by omega, show i - 8 < 32 by omega]
  · have e : 16 + (i - 16) = i := by omega
    simp [h, e, show ¬ i < 8 by omega, show ¬ i < 16 by omega, show ¬ i - 8 < 8 by omega, show i - 16 < 8 by omega,
      show i - 16 < 32 by omega]
  · have e : 24 + (i - 24) = i := by omega
    simp [h, e, show ¬ i < 8 by omega, show ¬ i < 16 by omega, show ¬ i < 24 by omega, show ¬ i - 8 < 8 by omega,
      show ¬ i - 16 < 8 by omega, show i - 24 < 8 by omega, show i - 24 < 32 by omega]

/-- Reading back a little-endian word written after any bytes (R57). -/
@[simp] theorem le32_append_le32bytes (a b : List Byte) (v : Word) :
    le32 (a ++ (le32bytes v ++ b)) a.length = v := by
  have h0 : byteAt (a ++ (le32bytes v ++ b)) a.length = v.extractLsb' 0 8 := by
    simp [byteAt, le32bytes]
  have h1 : byteAt (a ++ (le32bytes v ++ b)) (a.length + 1) = v.extractLsb' 8 8 := by
    rw [byteAt_append_right]; rfl
  have h2 : byteAt (a ++ (le32bytes v ++ b)) (a.length + 2) = v.extractLsb' 16 8 := by
    rw [byteAt_append_right]; rfl
  have h3 : byteAt (a ++ (le32bytes v ++ b)) (a.length + 3) = v.extractLsb' 24 8 := by
    rw [byteAt_append_right]; rfl
  rw [le32, h0, h1, h2, h3]
  exact word_of_bytes v

/-- The bytes of the word that four bytes make (R9). -/
theorem le32bytes_le32 (b0 b1 b2 b3 : Byte) : le32bytes (le32 [b0, b1, b2, b3] 0) = [b0, b1, b2, b3] := by
  simp only [le32bytes, le32, byteAt, List.getD_cons_zero, List.getD_cons_succ, Nat.zero_add, List.cons.injEq,
    and_true]
  refine ⟨?_, ?_, ?_, ?_⟩ <;>
  · apply BitVec.eq_of_getLsbD_eq
    intro i hi
    simp only [BitVec.getLsbD_extractLsb', BitVec.getLsbD_or, BitVec.getLsbD_shiftLeft, BitVec.getLsbD_setWidth]
    interval_cases i <;> simp

/-- The last four bytes of a byte string are the little-endian bytes of the word they spell (R74). -/
theorem le32bytes_le32_drop {b : List Byte} {n : Nat} (h : b.length = n + 4) : le32bytes (le32 b n) = b.drop n := by
  have e : ∀ i, byteAt b (n + i) = byteAt (b.drop n) i := fun i => by
    simp [byteAt, List.getD_eq_getElem?_getD, List.getElem?_drop]
  have hl : (b.drop n).length = 4 := by simp [h]
  obtain ⟨b0, b1, b2, b3, hb⟩ : ∃ b0 b1 b2 b3, b.drop n = [b0, b1, b2, b3] := by
    match b.drop n, hl with
    | [b0, b1, b2, b3], _ => exact ⟨b0, b1, b2, b3, rfl⟩
  have e0 := e 0
  simp only [Nat.add_zero] at e0
  rw [hb, ← le32bytes_le32 b0 b1 b2 b3]
  simp only [le32, e0, e 1, e 2, e 3, hb, Nat.zero_add]

/-- The CRC register after two byte strings in a row (R101). -/
theorem foldl_crcByte_append (acc : Word) (a b : List Byte) :
    (a ++ b).foldl crcByte acc = b.foldl crcByte (a.foldl crcByte acc) := by
  simp

theorem crcReg_append (a b : List Byte) : crcReg (a ++ b) = b.foldl crcByte (crcReg a) := by
  simp [crcReg]

/-- The polynomial has its lowest bit set, and a shifted register has not: the lowest bit of the next register tells
which case of R101 was taken. -/
theorem crcShift_getLsbD_zero (acc : Word) : (crcShift acc).getLsbD 0 = acc.getLsbD 31 := by
  unfold crcShift
  have hp : Config.crcPoly.getLsbD 0 = true := by decide
  by_cases h : acc.getLsbD 31 = true
  · rw [if_pos h, BitVec.getLsbD_xor, BitVec.getLsbD_shiftLeft, hp, h]; rfl
  · rw [if_neg h, BitVec.getLsbD_shiftLeft]; simpa using h

theorem shiftLeft_one_injective {a b : Word} (h : a <<< 1 = b <<< 1) (h31 : a.getLsbD 31 = b.getLsbD 31) : a = b := by
  apply BitVec.eq_of_getLsbD_eq
  intro i hi
  rcases (by omega : i < 31 ∨ i = 31) with hi' | rfl
  · have := congrArg (fun v : Word => v.getLsbD (i + 1)) h
    simpa [BitVec.getLsbD_shiftLeft, show i + 1 < 32 by omega, BitVec.getLsbD_eq_getElem hi] using this
  · exact h31

/-- One shift of the register loses nothing (R101). -/
theorem crcShift_injective {a b : Word} (h : crcShift a = crcShift b) : a = b := by
  have h31 : a.getLsbD 31 = b.getLsbD 31 := by
    rw [← crcShift_getLsbD_zero, ← crcShift_getLsbD_zero, h]
  refine shiftLeft_one_injective ?_ h31
  unfold crcShift at h
  by_cases ha : a.getLsbD 31 = true
  · rw [if_pos ha, if_pos (h31 ▸ ha)] at h
    exact (BitVec.xor_left_inj (z := Config.crcPoly)).mp h
  · rwa [if_neg ha, if_neg (h31 ▸ ha)] at h

theorem crcShifts_injective (n : Nat) {a b : Word} (h : crcShifts n a = crcShifts n b) : a = b := by
  induction n generalizing a b with
  | zero => exact h
  | succ n ih => exact crcShift_injective (ih h)

/-- A byte enters the register without loss (R101). -/
theorem crcByte_injective_acc {a b : Word} {x : Byte} (h : crcByte a x = crcByte b x) : a = b :=
  (BitVec.xor_left_inj (z := x.zeroExtend 32 <<< 24)).mp (crcShifts_injective 8 h)

theorem byte_to_top_injective {x y : Byte} (h : (x.zeroExtend 32 : Word) <<< 24 = y.zeroExtend 32 <<< 24) : x = y := by
  apply BitVec.eq_of_getLsbD_eq
  intro i hi
  have := congrArg (fun v : Word => v.getLsbD (24 + i)) h
  simpa [BitVec.getLsbD_shiftLeft, BitVec.getLsbD_setWidth, show 24 + i < 32 by omega,
    show i < 32 by omega, Nat.add_sub_cancel_left] using this

theorem crcByte_injective_byte {a : Word} {x y : Byte} (h : crcByte a x = crcByte a y) : x = y := by
  have := crcShifts_injective 8 h
  rw [BitVec.xor_comm a, BitVec.xor_comm a] at this
  exact byte_to_top_injective ((BitVec.xor_left_inj (z := a)).mp this)

/-- The register after the same bytes tells what it was before them (R101). -/
theorem foldl_crcByte_injective (l : List Byte) {a b : Word} (h : l.foldl crcByte a = l.foldl crcByte b) : a = b := by
  induction l generalizing a b with
  | nil => exact h
  | cons x l ih => exact crcByte_injective_acc (ih h)

end Sys2Proof.Machine
end

