-- ==== Sys2Proof/Laws/Catalog.lean ====
section
/-! SUPPORT. Laws of the ids (R87, R88), of the well-formedness checks (R8) and of the catalog lookup (R131). -/

namespace Sys2Proof

theorem TKind.mem_all (c : TKind) : c ∈ TKind.all := by cases c <;> decide

theorem Kind.mem_all (k : Kind) : k ∈ Kind.all := by cases k <;> decide

theorem Command.mem_all (cmd : Command) : cmd ∈ Command.all := by cases cmd <;> decide

theorem Kind.idx_injective {a b : Kind} (h : a.idx = b.idx) : a = b := by
  revert h; cases a <;> cases b <;> decide

theorem TKind.idx_injective {a b : TKind} (h : a.idx = b.idx) : a = b := by
  revert h; cases a <;> cases b <;> decide

theorem Command.idx_injective {a b : Command} (h : a.idx = b.idx) : a = b := by
  have e : ∀ c : Command, Command.all[c.idx.val]? = some c := by intro c; cases c <;> rfl
  have := (e a).symm.trans ((congrArg (fun i : Fin 25 => Command.all[i.val]?) h).trans (e b))
  exact Option.some.inj this

@[simp] theorem Kind.ofId_id (k : Kind) : Kind.ofId k.id = some k := by cases k <;> rfl

@[simp] theorem TKind.ofId_id (c : TKind) : TKind.ofId c.id = some c := by cases c <;> rfl

@[simp] theorem Transport.ofId_id (t : Transport) : Transport.ofId t.id = some t := by cases t <;> rfl

@[simp] theorem Link.ofId_id (l : Link) : Link.ofId l.id = some l := by cases l <;> rfl

theorem getElem?_id_eq {α : Type} {l : List α} {b : Byte} {x : α} {n : Nat} (h : l[b.toNat]? = some x)
    (hn : ∀ i, l[i]? = some x → i = n) : BitVec.ofNat 8 n = b := by
  rw [← hn _ h]; simp

theorem Kind.id_of_ofId {b : Byte} {k : Kind} (h : Kind.ofId b = some k) : k.id = b := by
  refine getElem?_id_eq h fun i hi => ?_
  have hl : i < 19 := (List.getElem?_eq_some_iff.mp hi).1
  revert hi
  interval_cases i <;> simp [Kind.all] <;> rintro rfl <;> rfl

theorem TKind.id_of_ofId {b : Byte} {c : TKind} (h : TKind.ofId b = some c) : c.id = b := by
  refine getElem?_id_eq h fun i hi => ?_
  have hl : i < 8 := (List.getElem?_eq_some_iff.mp hi).1
  revert hi
  interval_cases i <;> simp [TKind.all] <;> rintro rfl <;> rfl

theorem Transport.id_of_ofId {b : Byte} {t : Transport} (h : Transport.ofId b = some t) : t.id = b := by
  unfold Transport.ofId at h
  split at h
  · cases h; simp_all [Transport.id]
  · split at h
    · cases h; simp_all [Transport.id]
    · split at h
      · cases h; simp_all [Transport.id]
      · cases h

theorem Link.id_of_ofId {b : Byte} {l : Link} (h : Link.ofId b = some l) : l.id = b := by
  unfold Link.ofId at h
  split at h
  · cases h; simp_all [Link.id]
  · split at h
    · cases h; simp_all [Link.id]
    · cases h

namespace Config

variable {cfg : Config}

/-- The eight checks of a well-formed configuration (R8). -/
theorem wf_iff : cfg.wf = true ↔ cfg.wf1 = true ∧ cfg.wf2 = true ∧ cfg.wf3 = true ∧ cfg.wf4 = true ∧ cfg.wf5 = true
    ∧ cfg.wf6 = true ∧ cfg.wf7 = true ∧ cfg.wf8 = true := by
  simp [wf, and_assoc]

/-- WF1 of R8. -/
theorem size_ge_four (h : cfg.wf = true) (k : Kind) : 4 ≤ cfg.size k := by
  have := (wf_iff.mp h).1
  simp only [wf1, List.all_eq_true, decide_eq_true_eq] at this
  exact this k k.mem_all

/-- WF2 of R8. -/
theorem size_ge_nine (h : cfg.wf = true) (c : TKind) : 9 ≤ cfg.size c.toKind := by
  have := (wf_iff.mp h).2.1
  simp only [wf2, List.all_eq_true, decide_eq_true_eq] at this
  exact this c c.mem_all

/-- WF3 of R8. -/
theorem kindBit_injective (h : cfg.wf = true) {a b : TKind} (e : cfg.kindBit a = cfg.kindBit b) : a = b := by
  have := (wf_iff.mp h).2.2.1
  simp only [wf3, decide_eq_true_eq] at this
  refine TKind.idx_injective (Fin.ext ?_)
  exact (List.Nodup.getElem_inj_iff this (hi := by simp) (hj := by simp)).mp (by simpa [kindBit] using e)

/-- WF4 of R8. -/
theorem op_injective (h : cfg.wf = true) {a b : Command} (e : cfg.op a = cfg.op b) : a = b := by
  have := (wf_iff.mp h).2.2.2.1
  simp only [wf4, decide_eq_true_eq] at this
  refine Command.idx_injective (Fin.ext ?_)
  exact (List.Nodup.getElem_inj_iff this (hi := by simp) (hj := by simp)).mp (by simpa [op] using e)

/-- WF5 of R8. -/
theorem opClass_op (h : cfg.wf = true) (cmd : Command) : Machine.opClass (cfg.op cmd) = cmd.cls := by
  have := (wf_iff.mp h).2.2.2.2.1
  simp only [wf5, List.all_eq_true, beq_iff_eq] at this
  exact this cmd cmd.mem_all

end Config

namespace Machine

variable {cfg : Config}

/-- A found entry has the opcode (R131). -/
theorem op_of_entry {op : Byte} {cmd : Command} (h : entry cfg op = some cmd) : cfg.op cmd = op := by
  simpa using List.find?_some h

/-- The lookup finds every command at its own opcode (R131, R8 WF4). -/
theorem entry_op (h : cfg.wf = true) (cmd : Command) : entry cfg (cfg.op cmd) = some cmd := by
  cases e : entry cfg (cfg.op cmd) with
  | none => exact absurd (List.find?_eq_none.mp e cmd cmd.mem_all) (by simp)
  | some c => rw [Config.op_injective h (op_of_entry e)]

/-- The opcode of a found entry is in its command's class (R136). -/
theorem opClass_of_entry (h : cfg.wf = true) {op : Byte} {cmd : Command} (e : entry cfg op = some cmd) :
    opClass op = cmd.cls := by
  rw [← op_of_entry e, Config.opClass_op h]

theorem permitted_of_entry {op : Byte} {cmd : Command} (e : entry cfg op = some cmd) (t : Transport) :
    permitted cfg op t = (cfg.cap cmd).has t := by
  simp [permitted, e]

theorem initialPayloads_length (c : TKind) : (initialPayloads cfg)[c.idx].length = cfg.size c.toKind - 9 := by
  cases c <;> exact List.length_replicate

/-- The payloads at reset keep the sample source's contract (R14, R175, R275). -/
theorem initialPayloads_contract (h : cfg.wf = true) (c : TKind) :
    (initialPayloads cfg)[c.idx].length + 9 = cfg.size c.toKind := by
  rw [initialPayloads_length, Nat.sub_add_cancel (Config.size_ge_nine h c)]

end Machine

end Sys2Proof
end

