-- ==== Sys2Proof/Laws/Operands.lean ====
section
/-! SUPPORT. Laws of records and composites: what DECODE can answer (R106), the trailer's round trip (R109), what the
compositor's loop builds (R176) and what each pass of the parser's loop does (R181). -/

namespace Sys2Proof.Machine

variable {cfg : Config}

@[simp] theorem encodeRecord_length (cfg : Config) (body : List Byte) :
    (encodeRecord cfg body).length = body.length + 4 := by simp [encodeRecord]

/-- The trailer of a record that is a body and a word (R74). -/
theorem le32_trailer (body : List Byte) (v : Word) : le32 (body ++ le32bytes v) body.length = v := by
  simpa using le32_append_le32bytes body [] v

/-- The two parts of a byte string that ends in a trailer (R73). -/
theorem split_trailer (d : List Byte) (h : 4 ≤ d.length) :
    memRead d 0 (d.length - 4) ++ le32bytes (le32 d (d.length - 4)) = d := by
  rw [le32bytes_le32_drop (n := d.length - 4) (by omega)]
  simp [memRead]

/-- What DECODE does, every case (R106, R107). -/
theorem decodeRecord_cases (cfg : Config) (k : Kind) (acc : Word) (d : List Byte) :
    (d.length ≠ cfg.size k
      ∧ decodeRecord cfg k acc d = (⟨.sizeMismatch, .sizes (cfg.size k) d.length⟩, acc))
    ∨ (d.length = cfg.size k ∧ crc32 cfg (memRead d 0 (d.length - 4)) ≠ le32 d (d.length - 4)
      ∧ decodeRecord cfg k acc d
        = (⟨.checksumError, .checksums (crc32 cfg (memRead d 0 (d.length - 4))) (le32 d (d.length - 4))⟩,
            crcReg (memRead d 0 (d.length - 4))))
    ∨ (d.length = cfg.size k ∧ crc32 cfg (memRead d 0 (d.length - 4)) = le32 d (d.length - 4)
      ∧ decodeRecord cfg k acc d = (⟨.ok, .record (mkRecord k d)⟩, crcReg (memRead d 0 (d.length - 4)))) := by
  unfold decodeRecord
  by_cases hl : d.length = cfg.size k
  · rw [if_neg (not_not.mpr hl)]
    by_cases hc : crc32 cfg (memRead d 0 (d.length - 4)) = le32 d (d.length - 4)
    · exact .inr (.inr ⟨hl, hc, if_neg (not_not.mpr hc)⟩)
    · exact .inr (.inl ⟨hl, hc, if_pos hc⟩)
  · exact .inl ⟨hl, if_pos hl⟩

/-- DECODE of a body and its own checksum (R109). -/
theorem decodeRecord_encodeRecord (k : Kind) (acc : Word) {body : List Byte} (h : body.length + 4 = cfg.size k) :
    decodeRecord cfg k acc (encodeRecord cfg body)
      = (⟨.ok, .record (mkRecord k (encodeRecord cfg body))⟩, crcReg body) := by
  have hm : memRead (encodeRecord cfg body) 0 body.length = body := memRead_append_left _ _
  have ht : le32 (encodeRecord cfg body) body.length = crc32 cfg body := le32_trailer _ _
  have := decodeRecord_cases cfg k acc (encodeRecord cfg body)
  simp only [encodeRecord_length, Nat.add_sub_cancel, hm, ht] at this
  simpa [h] using this

@[simp] theorem mkRecord_kind (k : Kind) (d : List Byte) : (mkRecord k d).kind = k := rfl

theorem mkRecord_encodeRecord_body (k : Kind) (body : List Byte) :
    (mkRecord k (encodeRecord cfg body)).body = body := by
  simp only [mkRecord, encodeRecord_length, Nat.add_sub_cancel]
  exact memRead_append_left _ _

theorem mkRecord_encodeRecord_trailer (k : Kind) (body : List Byte) :
    (mkRecord k (encodeRecord cfg body)).trailer = crc32 cfg body := by
  simp only [mkRecord, encodeRecord_length, Nat.add_sub_cancel]
  exact le32_trailer _ _

/-- The fields of a telemetry record the compositor made (R75, R78). -/
theorem mkRecord_telemetryBody (c : TKind) (cnt : Word) (payload : List Byte) :
    (mkRecord c.toKind (encodeRecord cfg (telemetryBody cfg c cnt payload))).telemetry
      = some ⟨BitVec.ofNat 8 (cfg.kindBit c).val, cnt, payload⟩ := by
  have ht : c.toKind.isTelemetry = true := by cases c <;> decide
  have hc : le32 (encodeRecord cfg (telemetryBody cfg c cnt payload)) 1 = cnt := by
    simpa [encodeRecord, telemetryBody] using
      le32_append_le32bytes [BitVec.ofNat 8 (cfg.kindBit c).val]
        (payload ++ le32bytes (crc32 cfg (telemetryBody cfg c cnt payload))) cnt
  have hp : memRead (encodeRecord cfg (telemetryBody cfg c cnt payload)) 5 payload.length = payload := by
    simpa [encodeRecord, telemetryBody] using
      memRead_append_mid (BitVec.ofNat 8 (cfg.kindBit c).val :: le32bytes cnt) payload
        (le32bytes (crc32 cfg (telemetryBody cfg c cnt payload)))
  have hl : (encodeRecord cfg (telemetryBody cfg c cnt payload)).length - 9 = payload.length := by
    simp [telemetryBody]
  rw [mkRecord, ht, hl, hc, hp]
  rfl

/-- The record BUILD appends for a kind (R176). -/
def builtRecord (cfg : Config) (cnt : Vector Word 8) (src : Vector (List Byte) 8) (c : TKind) : List Byte :=
  encodeRecord cfg (telemetryBody cfg c cnt[c.idx] src[c.idx])

/-- What the compositor's loop builds, when the sample source keeps its contract (R175, R176). -/
theorem buildFrom_some {cnt : Vector Word 8} {src : Vector (List Byte) 8} {m : Byte} (l : List TKind)
    (h : ∀ c ∈ l, enabled cfg m c = true → src[c.idx].length + 9 = cfg.size c.toKind) (out : List Byte) (acc : Word) :
    ∃ acc', buildFrom cfg cnt src m l out acc
      = some (out ++ (l.filter (enabled cfg m)).flatMap (builtRecord cfg cnt src), acc') := by
  induction l generalizing out acc with
  | nil => exact ⟨acc, by simp [buildFrom]⟩
  | cons c cs ih =>
    have ih' := ih fun c hc => h c (List.mem_cons_of_mem _ hc)
    unfold buildFrom
    by_cases he : enabled cfg m c = true
    · rw [if_pos he, if_pos (h c List.mem_cons_self he)]
      obtain ⟨acc', e⟩ := ih' (out ++ builtRecord cfg cnt src c) (crcReg (telemetryBody cfg c cnt[c.idx] src[c.idx]))
      exact ⟨acc', by rw [builtRecord] at e; rw [e]; simp [he, builtRecord]⟩
    · obtain ⟨acc', e⟩ := ih' out acc
      exact ⟨acc', by rw [if_neg he, e]; simp [he]⟩

/-- The compositor's loop stops only on a payload of a wrong length (R175). -/
theorem buildFrom_contract {cnt : Vector Word 8} {src : Vector (List Byte) 8} {m : Byte} {l : List TKind}
    {out : List Byte} {acc : Word} {r : List Byte × Word} (h : buildFrom cfg cnt src m l out acc = some r) :
    ∀ c ∈ l, enabled cfg m c = true → src[c.idx].length + 9 = cfg.size c.toKind := by
  induction l generalizing out acc with
  | nil => simp
  | cons c cs ih =>
    unfold buildFrom at h
    by_cases he : enabled cfg m c = true
    · rw [if_pos he] at h
      split at h
      · rename_i hl
        intro c' hc' he'
        rcases List.mem_cons.mp hc' with rfl | hc'
        · exact hl
        · exact ih h c' hc' he'
      · cases h
    · rw [if_neg he] at h
      intro c' hc' he'
      rcases List.mem_cons.mp hc' with rfl | hc'
      · exact absurd he' he
      · exact ih h c' hc' he'

theorem builtRecord_length {cnt : Vector Word 8} {src : Vector (List Byte) 8} {c : TKind}
    (h : src[c.idx].length + 9 = cfg.size c.toKind) : (builtRecord cfg cnt src c).length = cfg.size c.toKind := by
  rw [← h, builtRecord, encodeRecord_length, telemetryBody, List.length_cons, List.length_append, le32bytes_length]
  omega

/-- The composite length of a list of kinds as a sum over the enabled ones (R177). -/
theorem lenFrom_eq_sum (m : Byte) (l : List TKind) :
    lenFrom cfg m l = ((l.filter (enabled cfg m)).map fun c => cfg.size c.toKind).sum := by
  induction l with
  | nil => rfl
  | cons c cs ih =>
    by_cases he : enabled cfg m c = true <;> simp [lenFrom, he, ih]

/-- One pass of the parser's loop after a truncation (R181). -/
theorem parseKind_after_trunc {d : List Byte} {st : ParseState} (c : TKind) (h : st.trunc.isSome = true) :
    parseKind cfg d st c
      = { st with slots := st.slots ++ [{ kind := c, status := .truncatedComposite, record := none }] } := by
  rw [parseKind, if_pos h]

/-- One pass of the parser's loop where the record does not fit (R181). -/
theorem parseKind_trunc {d : List Byte} {st : ParseState} (c : TKind) (h : st.trunc = none)
    (hl : d.length - st.off < cfg.size c.toKind) :
    parseKind cfg d st c
      = { st with
          slots := st.slots ++ [{ kind := c, status := .truncatedComposite, record := none }]
          trunc := some (c, d.length - st.off, cfg.size c.toKind) } := by
  rw [parseKind, if_neg (by simp [h]), if_pos hl]

/-- The slice of the composite the parser decodes next (R181). -/
def sliceOf (cfg : Config) (d : List Byte) (off : Nat) (c : TKind) : List Byte := memRead d off (cfg.size c.toKind)

/-- One pass of the parser's loop where the record fits (R181): its status is OK or CHECKSUM_ERROR. -/
theorem parseKind_fits {d : List Byte} {st : ParseState} (c : TKind) (h : st.trunc = none)
    (hl : cfg.size c.toKind ≤ d.length - st.off) :
    ∃ r acc, decodeRecord cfg c.toKind st.acc (sliceOf cfg d st.off c) = (r, acc)
      ∧ (r.status = .ok ∨ r.status = .checksumError)
      ∧ parseKind cfg d st c
        = { off := st.off + cfg.size c.toKind
            slots := st.slots ++ [decodedSlot c r]
            trunc := none
            anyck := st.anyck || r.status == .checksumError
            acc := acc } := by
  refine ⟨(decodeRecord cfg c.toKind st.acc (sliceOf cfg d st.off c)).1,
    (decodeRecord cfg c.toKind st.acc (sliceOf cfg d st.off c)).2, rfl, ?_, ?_⟩
  · have hs : (sliceOf cfg d st.off c).length = cfg.size c.toKind := by
      rw [sliceOf, memRead_length]; omega
    rcases decodeRecord_cases cfg c.toKind st.acc (sliceOf cfg d st.off c) with ⟨hn, -⟩ | ⟨-, -, e⟩ | ⟨-, -, e⟩
    · exact absurd hs hn
    · rw [e]; exact .inr rfl
    · rw [e]; exact .inl rfl
  · rw [parseKind, if_neg (by simp [h]), if_neg (by omega)]
    rfl

@[simp] theorem decodedSlot_kind (c : TKind) (r : Response) : (decodedSlot c r).kind = c := by
  unfold decodedSlot; split <;> rfl

@[simp] theorem decodedSlot_status (c : TKind) (r : Response) : (decodedSlot c r).status = r.status := by
  unfold decodedSlot; split <;> rfl

/-- The status and the slot of DECODE do not depend on the CRC register before it (R30). -/
theorem decodeRecord_acc (k : Kind) (acc acc' : Word) (d : List Byte) :
    (decodeRecord cfg k acc d).1 = (decodeRecord cfg k acc' d).1 := by
  unfold decodeRecord
  split <;> rfl

/-- After a truncation the parser's loop only adds truncated slots (R181). -/
theorem parseFrom_after_trunc {m : Byte} {d : List Byte} (l : List TKind) {st : ParseState}
    (h : st.trunc.isSome = true) :
    parseFrom cfg m d l st
      = { st with
          slots := st.slots ++ (l.filter (enabled cfg m)).map fun c =>
            { kind := c, status := .truncatedComposite, record := none } } := by
  induction l generalizing st with
  | nil => simp [parseFrom]
  | cons c cs ih =>
    by_cases he : enabled cfg m c = true
    · rw [parseFrom, if_pos he, parseKind_after_trunc c h, ih (by exact h)]
      simp [he]
    · rw [parseFrom, if_neg he, ih h]
      simp [he]

/-- What the parser's loop does where every enabled record fits (R181). -/
theorem parseFrom_fits {m : Byte} {d : List Byte} (l : List TKind) {st : ParseState} (h : st.trunc = none)
    (hl : st.off + lenFrom cfg m l ≤ d.length) :
    ∃ new acc, parseFrom cfg m d l st
        = { off := st.off + lenFrom cfg m l
            slots := st.slots ++ new
            trunc := none
            anyck := st.anyck || new.any (·.status == .checksumError)
            acc := acc }
      ∧ new.map Slot.kind = l.filter (enabled cfg m)
      ∧ ∀ x ∈ new, x.status = .ok ∨ x.status = .checksumError := by
  induction l generalizing st with
  | nil => exact ⟨[], st.acc, by cases st; simp_all [parseFrom, lenFrom], rfl, by simp⟩
  | cons c cs ih =>
    by_cases he : enabled cfg m c = true
    · rw [lenFrom, if_pos he] at hl
      obtain ⟨r, acc, -, hr, e⟩ := parseKind_fits (cfg := cfg) (d := d) (st := st) c h (by omega)
      obtain ⟨new, acc', e', hk, hs⟩ := ih (st := parseKind cfg d st c) (by rw [e]) (by rw [e]; simp only; omega)
      refine ⟨decodedSlot c r :: new, acc', ?_, by simp [he, hk], ?_⟩
      · rw [parseFrom, if_pos he, e', e]
        simp only [lenFrom, if_pos he, List.append_assoc, List.singleton_append, List.any_cons, decodedSlot_status,
          Nat.add_assoc, Bool.or_assoc]
      · intro x hx
        rcases List.mem_cons.mp hx with rfl | hx
        · simpa using hr
        · exact hs x hx
    · rw [lenFrom, if_neg he, Nat.zero_add] at hl
      obtain ⟨new, acc', e', hk, hs⟩ := ih h hl
      exact ⟨new, acc', by rw [parseFrom, if_neg he, e', lenFrom, if_neg he, Nat.zero_add], by simp [he, hk], hs⟩

/-- What the parser's loop does where the bytes run out (R181): the truncation names the first enabled kind whose
record does not fit. -/
theorem parseFrom_truncates {m : Byte} {d : List Byte} (l : List TKind) {st : ParseState} (hn : l.Nodup)
    (h : st.trunc = none) (ho : st.off ≤ d.length) (hl : d.length < st.off + lenFrom cfg m l) :
    ∃ k off, k ∈ l ∧ enabled cfg m k = true ∧ off = st.off + lenFrom cfg m (l.takeWhile (· != k))
      ∧ off ≤ d.length ∧ d.length - off < cfg.size k.toKind
      ∧ (parseFrom cfg m d l st).trunc = some (k, d.length - off, cfg.size k.toKind)
      ∧ (parseFrom cfg m d l st).slots.map Slot.kind = st.slots.map Slot.kind ++ l.filter (enabled cfg m) := by
  induction l generalizing st with
  | nil => simp [lenFrom] at hl; omega
  | cons c cs ih =>
    have hne : ∀ k ∈ cs, (c != k) = true := fun k hk => by
      simp only [bne_iff_ne, ne_eq]
      rintro rfl
      exact (List.nodup_cons.mp hn).1 hk
    by_cases he : enabled cfg m c = true
    · by_cases hf : cfg.size c.toKind ≤ d.length - st.off
      · obtain ⟨r, acc, -, hr, e⟩ := parseKind_fits (d := d) (st := st) c h hf
        rw [lenFrom, if_pos he] at hl
        obtain ⟨k, off, hk, hke, hoff, hle, hlt, ht, hs⟩ := ih (st := parseKind cfg d st c)
          (List.nodup_cons.mp hn).2 (by rw [e]) (by rw [e]; simp only; omega) (by rw [e]; simp only; omega)
        refine ⟨k, off, List.mem_cons_of_mem _ hk, hke, ?_, hle, hlt, ?_, ?_⟩
        · rw [hoff, e]
          simp only [List.takeWhile_cons, hne k hk, lenFrom, if_pos he, if_true]
          omega
        · rw [parseFrom, if_pos he]; exact ht
        · rw [parseFrom, if_pos he, hs, e]; simp [he]
      · refine ⟨c, st.off, List.mem_cons_self, he, by simp [lenFrom], ho, by omega, ?_, ?_⟩
        · rw [parseFrom, if_pos he, parseKind_trunc c h (by omega), parseFrom_after_trunc cs rfl]
        · rw [parseFrom, if_pos he, parseKind_trunc c h (by omega), parseFrom_after_trunc cs rfl]
          simp [he, Function.comp_def]
    · rw [lenFrom, if_neg he, Nat.zero_add] at hl
      obtain ⟨k, off, hk, hke, hoff, hle, hlt, ht, hs⟩ := ih (st := st) (List.nodup_cons.mp hn).2 h ho hl
      refine ⟨k, off, List.mem_cons_of_mem _ hk, hke, ?_, hle, hlt, ?_, ?_⟩
      · rw [hoff, List.takeWhile_cons, if_pos (hne k hk), lenFrom, if_neg he, Nat.zero_add]
      · rw [parseFrom, if_neg he]; exact ht
      · rw [parseFrom, if_neg he, hs]; simp [he]

/-- What a slot of PARSE holds, for its kind's record at offset `off` (R181, R242): DECODE's answer where the record
fits, and TRUNCATED_COMPOSITE with no record where it does not. -/
structure SlotHolds (cfg : Config) (d : List Byte) (off : Nat) (x : Slot) : Prop where
  ok : off + cfg.size x.kind.toKind ≤ d.length →
    crc32 cfg (memRead (sliceOf cfg d off x.kind) 0 ((sliceOf cfg d off x.kind).length - 4))
      = le32 (sliceOf cfg d off x.kind) ((sliceOf cfg d off x.kind).length - 4) →
    x.status = .ok ∧ x.record = some (mkRecord x.kind.toKind (sliceOf cfg d off x.kind))
  bad : off + cfg.size x.kind.toKind ≤ d.length →
    crc32 cfg (memRead (sliceOf cfg d off x.kind) 0 ((sliceOf cfg d off x.kind).length - 4))
      ≠ le32 (sliceOf cfg d off x.kind) ((sliceOf cfg d off x.kind).length - 4) →
    x.status = .checksumError ∧ x.record = none
  short : d.length < off + cfg.size x.kind.toKind → x.status = .truncatedComposite ∧ x.record = none

theorem slotHolds_short {d : List Byte} {off : Nat} {c : TKind} (h : d.length < off + cfg.size c.toKind) :
    SlotHolds cfg d off { kind := c, status := .truncatedComposite, record := none } where
  ok hf _ := absurd hf (by simp only; omega)
  bad hf _ := absurd hf (by simp only; omega)
  short _ := ⟨rfl, rfl⟩

theorem slotHolds_decoded {d : List Byte} {off : Nat} {c : TKind} (acc : Word)
    (h : off + cfg.size c.toKind ≤ d.length) :
    SlotHolds cfg d off (decodedSlot c (decodeRecord cfg c.toKind acc (sliceOf cfg d off c)).1) := by
  have hs : (sliceOf cfg d off c).length = cfg.size c.toKind := by
    rw [sliceOf, memRead_length]; omega
  refine ⟨fun _ he => ?_, fun _ he => ?_, fun hn => absurd h (by simpa using hn)⟩
  · rw [decodedSlot_kind] at he ⊢
    rcases decodeRecord_cases cfg c.toKind acc (sliceOf cfg d off c) with ⟨hn, -⟩ | ⟨-, hn, -⟩ | ⟨-, -, e⟩
    · exact absurd hs hn
    · exact absurd he hn
    · rw [e]; exact ⟨rfl, rfl⟩
  · rw [decodedSlot_kind] at he
    rcases decodeRecord_cases cfg c.toKind acc (sliceOf cfg d off c) with ⟨hn, -⟩ | ⟨-, -, e⟩ | ⟨-, hn, -⟩
    · exact absurd hs hn
    · rw [e]; exact ⟨rfl, rfl⟩
    · exact absurd hn he

/-- What every slot the parser's loop adds holds, whether the bytes run out or not (R181): its kind's record starts
where the sizes of the enabled kinds before it end. -/
theorem parseFrom_slots {m : Byte} {d : List Byte} (l : List TKind) {st : ParseState} (hn : l.Nodup)
    (h : st.trunc = none) (ho : st.off ≤ d.length) :
    ∃ new, (parseFrom cfg m d l st).slots = st.slots ++ new ∧ new.map Slot.kind = l.filter (enabled cfg m)
      ∧ ∀ x ∈ new, SlotHolds cfg d (st.off + lenFrom cfg m (l.takeWhile (· != x.kind))) x := by
  induction l generalizing st with
  | nil => exact ⟨[], by simp [parseFrom], rfl, by simp⟩
  | cons c cs ih =>
    have hne : ∀ k ∈ cs, (c != k) = true := fun k hk => by
      simp only [bne_iff_ne, ne_eq]
      rintro rfl
      exact (List.nodup_cons.mp hn).1 hk
    have hmem : ∀ {new : List Slot}, new.map Slot.kind = cs.filter (enabled cfg m) → ∀ x ∈ new, (c != x.kind) = true :=
      fun hk x hx => hne _ (List.mem_filter.mp (hk ▸ List.mem_map_of_mem hx)).1
    by_cases he : enabled cfg m c = true
    · by_cases hf : st.off + cfg.size c.toKind ≤ d.length
      · have e : parseKind cfg d st c
            = { off := st.off + cfg.size c.toKind
                slots := st.slots ++ [decodedSlot c (decodeRecord cfg c.toKind st.acc (sliceOf cfg d st.off c)).1]
                trunc := none
                anyck := st.anyck
                  || (decodeRecord cfg c.toKind st.acc (sliceOf cfg d st.off c)).1.status == .checksumError
                acc := (decodeRecord cfg c.toKind st.acc (sliceOf cfg d st.off c)).2 } := by
          rw [parseKind, if_neg (by simp [h]), if_neg (by omega)]; rfl
        obtain ⟨new, hs, hk, hx⟩ := ih (st := parseKind cfg d st c) (List.nodup_cons.mp hn).2 (by rw [e])
          (by rw [e]; exact hf)
        refine ⟨decodedSlot c (decodeRecord cfg c.toKind st.acc (sliceOf cfg d st.off c)).1 :: new, ?_,
          by simp [he, hk], ?_⟩
        · rw [parseFrom, if_pos he, hs, e]; simp
        · intro x hxm
          rcases List.mem_cons.mp hxm with rfl | hxm
          · simpa [lenFrom] using slotHolds_decoded st.acc hf
          · have := hx x hxm
            rw [e] at this
            rwa [List.takeWhile_cons, if_pos (hmem hk x hxm), lenFrom, if_pos he, ← Nat.add_assoc]
      · have e := parseKind_trunc (cfg := cfg) (d := d) c h (by omega)
        refine ⟨⟨c, .truncatedComposite, none⟩ :: (cs.filter (enabled cfg m)).map fun k =>
          ⟨k, .truncatedComposite, none⟩, ?_, by simp [he, Function.comp_def], ?_⟩
        · rw [parseFrom, if_pos he, parseFrom_after_trunc cs (by rw [e]; rfl), e]; simp
        · intro x hxm
          rcases List.mem_cons.mp hxm with rfl | hxm
          · exact slotHolds_short (by simp [lenFrom]; omega)
          · obtain ⟨k, hk, rfl⟩ := List.mem_map.mp hxm
            refine slotHolds_short ?_
            rw [List.takeWhile_cons, if_pos (hne k (List.mem_filter.mp hk).1), lenFrom, if_pos he]
            omega
    · obtain ⟨new, hs, hk, hx⟩ := ih (st := st) (List.nodup_cons.mp hn).2 h ho
      refine ⟨new, by rw [parseFrom, if_neg he, hs], by simp [he, hk], fun x hxm => ?_⟩
      have := hx x hxm
      rwa [List.takeWhile_cons, if_pos (hmem hk x hxm), lenFrom, if_neg he, Nat.zero_add]

end Sys2Proof.Machine
end

