-- ==== Sys2Proof/Laws/Decode.lean ====
section
/-! SUPPORT. Laws of the request layout (log 1), of the requests that spell EXEC (R86), and of the write-phase bytes
EXEC builds (R81, R205). -/

namespace Sys2Proof.Machine

variable {cfg : Config}

/-- The four bits of a caller id in their byte (R85, log 1). -/
theorem caller_byte (c : Caller) :
    (c.zeroExtend 8).extractLsb' 4 4 = 0#4 ∧ (c.zeroExtend 8).extractLsb' 0 4 = c := by
  revert c; decide

theorem byte_of_caller {b : Byte} (h : b.extractLsb' 4 4 = 0#4) : (b.extractLsb' 0 4).zeroExtend 8 = b := by
  revert b; decide

@[simp] theorem requestOfBytes_bytesOfRequest (r : Request) : requestOfBytes (bytesOfRequest r) = .ok r := by
  simp only [bytesOfRequest, requestOfBytes, caller_byte, if_true]

theorem bytesOfRequest_of_requestOfBytes {bs : List Byte} {r : Request} (h : requestOfBytes bs = .ok r) :
    bytesOfRequest r = bs := by
  unfold requestOfBytes at h
  split at h
  · split at h
    · rename_i hc
      cases h
      simp only [bytesOfRequest, byte_of_caller hc]
    · cases h
  · cases h

/-- The selector byte of a found operation (R86). -/
theorem opc_of_ofOpc {b : Byte} {o : OpSel} (h : OpSel.ofOpc b = some o) : o.opc = b := by
  revert h
  revert b
  cases o <;> decide +kernel

/-- A transport id has bits 7..2 zero (R88). -/
theorem transport_id_high (t : Transport) : t.id.extractLsb' 2 6 = 0#6 := by cases t <;> decide

/-- The request that spells an EXEC (R86). -/
theorem decodeRequest_requestOf_exec {c : Caller} (h : callerOk cfg c = true) (op : Byte) (t : Transport)
    (d : List Byte) : decodeRequest cfg (requestOf .exec c op t.id d) = .exec c op t d := by
  simp [decodeRequest, requestOf, requestFault, h, OpSel.opc, OpSel.ofOpc, OpSel.all, faultA, faultB, faultD,
    decodeFields, transport_id_high]

/-- Only that request spells it (R86). -/
theorem decodeRequest_exec {r : Request} {c : Caller} {op : Byte} {t : Transport} {d : List Byte}
    (h : decodeRequest cfg r = .exec c op t d) : r = requestOf .exec c op t.id d ∧ callerOk cfg c = true := by
  unfold decodeRequest at h
  split at h
  · cases h
  · rename_i hf
    unfold requestFault at hf
    split at hf
    · rename_i hc
      split at hf
      · simp at hf
      · rename_i o ho
        have hopc := opc_of_ofOpc ho
        simp only [ho] at h
        cases o <;> simp only [decodeFields] at h <;> try (split at h)
        all_goals try (cases h; done)
        cases h
        refine ⟨?_, hc⟩
        obtain ⟨c, opc, a, b, d⟩ := r
        simp only [requestOf] at *
        rw [hopc, Transport.id_of_ofId (by assumption)]
    · simp at hf

/-- A record's bytes split into the body and the trailer they were made of (R73, R81). -/
theorem recordInstr_append {k : Kind} {body : List Byte} (h : body.length + 4 = cfg.size k) (trailer : Word)
    (mk : List Byte → Word → Instr) : recordInstr cfg k (body ++ le32bytes trailer) mk = .ok (mk body trailer) := by
  have e : cfg.size k - 4 = body.length := by omega
  simp [recordInstr, splitRecord, h, e, le32_trailer, memRead_append_left]

/-- Only such bytes give a record instruction (R73, R81). -/
theorem recordInstr_ok (hw : cfg.wf = true) {k : Kind} {req : List Byte} {mk : List Byte → Word → Instr} {i : Instr}
    (h : recordInstr cfg k req mk = .ok i) :
    ∃ body trailer, i = mk body trailer ∧ req = body ++ le32bytes trailer ∧ body.length + 4 = cfg.size k := by
  unfold recordInstr splitRecord at h
  have h4 := Config.size_ge_four hw k
  by_cases hl : req.length = cfg.size k
  · simp only [hl, if_true] at h
    cases h
    have := split_trailer req (by omega)
    rw [hl] at this
    exact ⟨_, _, rfl, this.symm, by rw [memRead_length]; omega⟩
  · simp [hl] at h

/-- The instruction of a write-phase byte string is its opcode's command (R131). -/
theorem command_of_decodeWire {op : Byte} {req : List Byte} {i : Instr} (h : decodeWire cfg (op :: req) = .ok i) :
    i.command = entry cfg op := by
  unfold decodeWire at h
  split at h
  · rename_i he
    cases he
  · rename_i he
    cases he
    split at h
    · rename_i cmd he
      have hrec : ∀ k mk, (∀ b t, (mk b t : Instr).command = some cmd) → recordInstr cfg k req mk = .ok i →
          i.command = some cmd := by
        intro k mk hmk h
        unfold recordInstr at h
        split at h <;> cases h
        exact hmk _ _
      have hread : ∀ j : Instr, j.command = some cmd → readInstr req j = .ok i → i.command = some cmd := by
        intro j hj h
        unfold readInstr at h
        split at h <;> cases h
        exact hj
      rw [he]
      cases cmd <;> first
        | exact hrec _ _ (fun _ _ => rfl) h
        | exact hread _ rfl h
        | (change maskInstr req = _ at h; unfold maskInstr at h; split at h <;> cases h; rfl)
    · rename_i he
      cases h
      exact he.symm

/-- The write-phase bytes EXEC builds are those of an instruction of the command (R81, R205). -/
theorem decodeWire_issueBytes (hw : cfg.wf = true) {cmd : Command} {d : List Byte} (h : d.length = bodyLen cfg cmd) :
    ∃ i, decodeWire cfg (issueBytes cfg cmd d) = .ok i ∧ i.command = some cmd
      ∧ encodeInstr cfg i = issueBytes cfg cmd d := by
  have hrec : ∀ k, d.length = cfg.size k - 4 → ∀ mk : List Byte → Word → Instr,
      recordInstr cfg k (d ++ le32bytes (crc32 cfg d)) mk = .ok (mk d (crc32 cfg d)) := fun k hk mk =>
    recordInstr_append (by have := Config.size_ge_four hw k; omega) _ mk
  cases cmd <;> first
    | exact ⟨_, by
        simp only [issueBytes, Command.req, wireRecord, decodeWire, entry_op hw, commandInstr]
        exact hrec _ h _, rfl, rfl⟩
    | exact ⟨_, by simp only [issueBytes, Command.req, decodeWire, entry_op hw, commandInstr, readInstr]; rfl, rfl, rfl⟩
    | skip
  obtain ⟨m, rfl⟩ : ∃ m, d = [m] := List.length_eq_one_iff.mp h
  exact ⟨.setMask m, by simp only [issueBytes, Command.req, decodeWire, entry_op hw, commandInstr, maskInstr], rfl, rfl⟩

end Sys2Proof.Machine
end

