-- ==== Sys2Proof/Laws/State.lean ====
section
/-! SUPPORT. What each named update of the state does to each field: one lemma per field per update. -/

namespace Sys2Proof.Machine.State

@[simp] theorem setPending_cnt (s : State) (c : Caller) (r : Option Request) : (s.setPending c r).cnt = s.cnt := rfl
@[simp] theorem setPending_chOpen (s : State) (c : Caller) (r : Option Request) : (s.setPending c r).chOpen = s.chOpen := rfl
@[simp] theorem setPending_chLink (s : State) (c : Caller) (r : Option Request) : (s.setPending c r).chLink = s.chLink := rfl
@[simp] theorem setPending_desync (s : State) (c : Caller) (r : Option Request) : (s.setPending c r).desync = s.desync := rfl
@[simp] theorem setPending_seqPhase (s : State) (c : Caller) (r : Option Request) : (s.setPending c r).seqPhase = s.seqPhase := rfl
@[simp] theorem setPending_seqCtx (s : State) (c : Caller) (r : Option Request) : (s.setPending c r).seqCtx = s.seqCtx := rfl
@[simp] theorem setPending_maskShadow (s : State) (c : Caller) (r : Option Request) : (s.setPending c r).maskShadow = s.maskShadow := rfl
@[simp] theorem setPending_crcAcc (s : State) (c : Caller) (r : Option Request) : (s.setPending c r).crcAcc = s.crcAcc := rfl
@[simp] theorem setPending_pending (s : State) (c : Caller) (r : Option Request) : (s.setPending c r).pending = s.pending.set c.toNat r c.isLt := rfl
@[simp] theorem setPending_refusedRun (s : State) (c : Caller) (r : Option Request) : (s.setPending c r).refusedRun = s.refusedRun := rfl
@[simp] theorem setPending_cfg (s : State) (c : Caller) (r : Option Request) : (s.setPending c r).cfg = s.cfg := rfl
@[simp] theorem setPending_agenda (s : State) (c : Caller) (r : Option Request) : (s.setPending c r).agenda = s.agenda := rfl
@[simp] theorem setPending_inputs (s : State) (c : Caller) (r : Option Request) : (s.setPending c r).inputs = s.inputs := rfl
@[simp] theorem setPending_responses (s : State) (c : Caller) (r : Option Request) : (s.setPending c r).responses = s.responses := rfl
@[simp] theorem setPending_wire (s : State) (c : Caller) (r : Option Request) : (s.setPending c r).wire = s.wire := rfl
@[simp] theorem setPending_freeIdx (s : State) (c : Caller) (r : Option Request) : (s.setPending c r).freeIdx = s.freeIdx := rfl

@[simp] theorem respond_cnt (s : State) (c : Caller) (r : Response) : (s.respond c r).cnt = s.cnt := rfl
@[simp] theorem respond_chOpen (s : State) (c : Caller) (r : Response) : (s.respond c r).chOpen = s.chOpen := rfl
@[simp] theorem respond_chLink (s : State) (c : Caller) (r : Response) : (s.respond c r).chLink = s.chLink := rfl
@[simp] theorem respond_desync (s : State) (c : Caller) (r : Response) : (s.respond c r).desync = s.desync := rfl
@[simp] theorem respond_seqPhase (s : State) (c : Caller) (r : Response) : (s.respond c r).seqPhase = s.seqPhase := rfl
@[simp] theorem respond_seqCtx (s : State) (c : Caller) (r : Response) : (s.respond c r).seqCtx = s.seqCtx := rfl
@[simp] theorem respond_maskShadow (s : State) (c : Caller) (r : Response) : (s.respond c r).maskShadow = s.maskShadow := rfl
@[simp] theorem respond_crcAcc (s : State) (c : Caller) (r : Response) : (s.respond c r).crcAcc = s.crcAcc := rfl
@[simp] theorem respond_pending (s : State) (c : Caller) (r : Response) : (s.respond c r).pending = s.pending.set c.toNat none c.isLt := rfl
@[simp] theorem respond_refusedRun (s : State) (c : Caller) (r : Response) : (s.respond c r).refusedRun = s.refusedRun := rfl
@[simp] theorem respond_cfg (s : State) (c : Caller) (r : Response) : (s.respond c r).cfg = s.cfg := rfl
@[simp] theorem respond_agenda (s : State) (c : Caller) (r : Response) : (s.respond c r).agenda = s.agenda := rfl
@[simp] theorem respond_inputs (s : State) (c : Caller) (r : Response) : (s.respond c r).inputs = s.inputs := rfl
@[simp] theorem respond_responses (s : State) (c : Caller) (r : Response) : (s.respond c r).responses = (c, r) :: s.responses := rfl
@[simp] theorem respond_wire (s : State) (c : Caller) (r : Response) : (s.respond c r).wire = s.wire := rfl
@[simp] theorem respond_freeIdx (s : State) (c : Caller) (r : Response) : (s.respond c r).freeIdx = s.freeIdx := rfl

@[simp] theorem refuseRequest_cnt (s : State) (c : Caller) : (s.refuseRequest c).cnt = s.cnt := rfl
@[simp] theorem refuseRequest_chOpen (s : State) (c : Caller) : (s.refuseRequest c).chOpen = s.chOpen := rfl
@[simp] theorem refuseRequest_chLink (s : State) (c : Caller) : (s.refuseRequest c).chLink = s.chLink := rfl
@[simp] theorem refuseRequest_desync (s : State) (c : Caller) : (s.refuseRequest c).desync = s.desync := rfl
@[simp] theorem refuseRequest_seqPhase (s : State) (c : Caller) : (s.refuseRequest c).seqPhase = s.seqPhase := rfl
@[simp] theorem refuseRequest_seqCtx (s : State) (c : Caller) : (s.refuseRequest c).seqCtx = s.seqCtx := rfl
@[simp] theorem refuseRequest_maskShadow (s : State) (c : Caller) : (s.refuseRequest c).maskShadow = s.maskShadow := rfl
@[simp] theorem refuseRequest_crcAcc (s : State) (c : Caller) : (s.refuseRequest c).crcAcc = s.crcAcc := rfl
@[simp] theorem refuseRequest_pending (s : State) (c : Caller) : (s.refuseRequest c).pending = s.pending.set c.toNat none c.isLt := rfl
@[simp] theorem refuseRequest_refusedRun (s : State) (c : Caller) : (s.refuseRequest c).refusedRun = true := rfl
@[simp] theorem refuseRequest_cfg (s : State) (c : Caller) : (s.refuseRequest c).cfg = s.cfg := rfl
@[simp] theorem refuseRequest_agenda (s : State) (c : Caller) : (s.refuseRequest c).agenda = s.agenda := rfl
@[simp] theorem refuseRequest_inputs (s : State) (c : Caller) : (s.refuseRequest c).inputs = s.inputs := rfl
@[simp] theorem refuseRequest_responses (s : State) (c : Caller) : (s.refuseRequest c).responses = s.responses := rfl
@[simp] theorem refuseRequest_wire (s : State) (c : Caller) : (s.refuseRequest c).wire = s.wire := rfl
@[simp] theorem refuseRequest_freeIdx (s : State) (c : Caller) : (s.refuseRequest c).freeIdx = s.freeIdx := rfl

@[simp] theorem setCounter_cnt (s : State) (c : TKind) (v : Word) : (s.setCounter c v).cnt = s.cnt.set c.idx v := rfl
@[simp] theorem setCounter_chOpen (s : State) (c : TKind) (v : Word) : (s.setCounter c v).chOpen = s.chOpen := rfl
@[simp] theorem setCounter_chLink (s : State) (c : TKind) (v : Word) : (s.setCounter c v).chLink = s.chLink := rfl
@[simp] theorem setCounter_desync (s : State) (c : TKind) (v : Word) : (s.setCounter c v).desync = s.desync := rfl
@[simp] theorem setCounter_seqPhase (s : State) (c : TKind) (v : Word) : (s.setCounter c v).seqPhase = s.seqPhase := rfl
@[simp] theorem setCounter_seqCtx (s : State) (c : TKind) (v : Word) : (s.setCounter c v).seqCtx = s.seqCtx := rfl
@[simp] theorem setCounter_maskShadow (s : State) (c : TKind) (v : Word) : (s.setCounter c v).maskShadow = s.maskShadow := rfl
@[simp] theorem setCounter_crcAcc (s : State) (c : TKind) (v : Word) : (s.setCounter c v).crcAcc = s.crcAcc := rfl
@[simp] theorem setCounter_pending (s : State) (c : TKind) (v : Word) : (s.setCounter c v).pending = s.pending := rfl
@[simp] theorem setCounter_refusedRun (s : State) (c : TKind) (v : Word) : (s.setCounter c v).refusedRun = s.refusedRun := rfl
@[simp] theorem setCounter_cfg (s : State) (c : TKind) (v : Word) : (s.setCounter c v).cfg = s.cfg := rfl
@[simp] theorem setCounter_agenda (s : State) (c : TKind) (v : Word) : (s.setCounter c v).agenda = s.agenda := rfl
@[simp] theorem setCounter_inputs (s : State) (c : TKind) (v : Word) : (s.setCounter c v).inputs = s.inputs := rfl
@[simp] theorem setCounter_responses (s : State) (c : TKind) (v : Word) : (s.setCounter c v).responses = s.responses := rfl
@[simp] theorem setCounter_wire (s : State) (c : TKind) (v : Word) : (s.setCounter c v).wire = s.wire := rfl
@[simp] theorem setCounter_freeIdx (s : State) (c : TKind) (v : Word) : (s.setCounter c v).freeIdx = s.freeIdx := rfl

@[simp] theorem present_cnt (s : State) (c : TKind) (p : List Byte) : (s.present c p).cnt = s.cnt := rfl
@[simp] theorem present_chOpen (s : State) (c : TKind) (p : List Byte) : (s.present c p).chOpen = s.chOpen := rfl
@[simp] theorem present_chLink (s : State) (c : TKind) (p : List Byte) : (s.present c p).chLink = s.chLink := rfl
@[simp] theorem present_desync (s : State) (c : TKind) (p : List Byte) : (s.present c p).desync = s.desync := rfl
@[simp] theorem present_seqPhase (s : State) (c : TKind) (p : List Byte) : (s.present c p).seqPhase = s.seqPhase := rfl
@[simp] theorem present_seqCtx (s : State) (c : TKind) (p : List Byte) : (s.present c p).seqCtx = s.seqCtx := rfl
@[simp] theorem present_maskShadow (s : State) (c : TKind) (p : List Byte) : (s.present c p).maskShadow = s.maskShadow := rfl
@[simp] theorem present_crcAcc (s : State) (c : TKind) (p : List Byte) : (s.present c p).crcAcc = s.crcAcc := rfl
@[simp] theorem present_pending (s : State) (c : TKind) (p : List Byte) : (s.present c p).pending = s.pending := rfl
@[simp] theorem present_refusedRun (s : State) (c : TKind) (p : List Byte) : (s.present c p).refusedRun = s.refusedRun := rfl
@[simp] theorem present_cfg (s : State) (c : TKind) (p : List Byte) : (s.present c p).cfg = s.cfg := rfl
@[simp] theorem present_agenda (s : State) (c : TKind) (p : List Byte) : (s.present c p).agenda = s.agenda := rfl
@[simp] theorem present_inputs (s : State) (c : TKind) (p : List Byte) : (s.present c p).inputs = { s.inputs with src := s.inputs.src.set c.idx p } := rfl
@[simp] theorem present_responses (s : State) (c : TKind) (p : List Byte) : (s.present c p).responses = s.responses := rfl
@[simp] theorem present_wire (s : State) (c : TKind) (p : List Byte) : (s.present c p).wire = s.wire := rfl
@[simp] theorem present_freeIdx (s : State) (c : TKind) (p : List Byte) : (s.present c p).freeIdx = s.freeIdx := rfl

@[simp] theorem logTransfer_cnt (s : State) (x : Transfer) : (s.logTransfer x).cnt = s.cnt := rfl
@[simp] theorem logTransfer_chOpen (s : State) (x : Transfer) : (s.logTransfer x).chOpen = s.chOpen := rfl
@[simp] theorem logTransfer_chLink (s : State) (x : Transfer) : (s.logTransfer x).chLink = s.chLink := rfl
@[simp] theorem logTransfer_desync (s : State) (x : Transfer) : (s.logTransfer x).desync = s.desync := rfl
@[simp] theorem logTransfer_seqPhase (s : State) (x : Transfer) : (s.logTransfer x).seqPhase = s.seqPhase := rfl
@[simp] theorem logTransfer_seqCtx (s : State) (x : Transfer) : (s.logTransfer x).seqCtx = s.seqCtx := rfl
@[simp] theorem logTransfer_maskShadow (s : State) (x : Transfer) : (s.logTransfer x).maskShadow = s.maskShadow := rfl
@[simp] theorem logTransfer_crcAcc (s : State) (x : Transfer) : (s.logTransfer x).crcAcc = s.crcAcc := rfl
@[simp] theorem logTransfer_pending (s : State) (x : Transfer) : (s.logTransfer x).pending = s.pending := rfl
@[simp] theorem logTransfer_refusedRun (s : State) (x : Transfer) : (s.logTransfer x).refusedRun = s.refusedRun := rfl
@[simp] theorem logTransfer_cfg (s : State) (x : Transfer) : (s.logTransfer x).cfg = s.cfg := rfl
@[simp] theorem logTransfer_agenda (s : State) (x : Transfer) : (s.logTransfer x).agenda = s.agenda := rfl
@[simp] theorem logTransfer_inputs (s : State) (x : Transfer) : (s.logTransfer x).inputs = s.inputs := rfl
@[simp] theorem logTransfer_responses (s : State) (x : Transfer) : (s.logTransfer x).responses = s.responses := rfl
@[simp] theorem logTransfer_wire (s : State) (x : Transfer) : (s.logTransfer x).wire = x :: s.wire := rfl
@[simp] theorem logTransfer_freeIdx (s : State) (x : Transfer) : (s.logTransfer x).freeIdx = s.freeIdx := rfl

@[simp] theorem takeReset_cnt (s : State) : s.takeReset.cnt = Vector.replicate 8 Config.cntReset := rfl
@[simp] theorem takeReset_chOpen (s : State) : s.takeReset.chOpen = false := rfl
@[simp] theorem takeReset_chLink (s : State) : s.takeReset.chLink = Config.resetLink s.freeIdx := rfl
@[simp] theorem takeReset_desync (s : State) : s.takeReset.desync = false := rfl
@[simp] theorem takeReset_seqPhase (s : State) : s.takeReset.seqPhase = .idle := rfl
@[simp] theorem takeReset_seqCtx (s : State) : s.takeReset.seqCtx = State.resetCtx s.freeIdx := rfl
@[simp] theorem takeReset_maskShadow (s : State) : s.takeReset.maskShadow = 0#8 := rfl
@[simp] theorem takeReset_crcAcc (s : State) : s.takeReset.crcAcc = Config.resetCrcAcc s.freeIdx := rfl
@[simp] theorem takeReset_pending (s : State) : s.takeReset.pending = Vector.replicate 16 none := rfl
@[simp] theorem takeReset_refusedRun (s : State) : s.takeReset.refusedRun = s.refusedRun := rfl
@[simp] theorem takeReset_cfg (s : State) : s.takeReset.cfg = s.cfg := rfl
@[simp] theorem takeReset_agenda (s : State) : s.takeReset.agenda = s.agenda := rfl
@[simp] theorem takeReset_inputs (s : State) : s.takeReset.inputs = s.inputs := rfl
@[simp] theorem takeReset_responses (s : State) : s.takeReset.responses = s.responses := rfl
@[simp] theorem takeReset_wire (s : State) : s.takeReset.wire = s.wire := rfl
@[simp] theorem takeReset_freeIdx (s : State) : s.takeReset.freeIdx = s.freeIdx + 1 := rfl

@[simp] theorem complete_cnt (s : State) (r : Response) : (s.complete r).cnt = s.cnt := rfl
@[simp] theorem complete_chOpen (s : State) (r : Response) : (s.complete r).chOpen = s.chOpen := rfl
@[simp] theorem complete_chLink (s : State) (r : Response) : (s.complete r).chLink = s.chLink := rfl
@[simp] theorem complete_desync (s : State) (r : Response) : (s.complete r).desync = s.desync := rfl
@[simp] theorem complete_seqPhase (s : State) (r : Response) : (s.complete r).seqPhase = .idle := rfl
@[simp] theorem complete_seqCtx (s : State) (r : Response) : (s.complete r).seqCtx = s.seqCtx := rfl
@[simp] theorem complete_maskShadow (s : State) (r : Response) : (s.complete r).maskShadow = s.maskShadow := rfl
@[simp] theorem complete_crcAcc (s : State) (r : Response) : (s.complete r).crcAcc = s.crcAcc := rfl
@[simp] theorem complete_pending (s : State) (r : Response) : (s.complete r).pending = s.pending.set s.seqCtx.owner.toNat none s.seqCtx.owner.isLt := rfl
@[simp] theorem complete_refusedRun (s : State) (r : Response) : (s.complete r).refusedRun = s.refusedRun := rfl
@[simp] theorem complete_cfg (s : State) (r : Response) : (s.complete r).cfg = s.cfg := rfl
@[simp] theorem complete_agenda (s : State) (r : Response) : (s.complete r).agenda = s.agenda := rfl
@[simp] theorem complete_inputs (s : State) (r : Response) : (s.complete r).inputs = s.inputs := rfl
@[simp] theorem complete_responses (s : State) (r : Response) : (s.complete r).responses = (s.seqCtx.owner, r) :: s.responses := rfl
@[simp] theorem complete_wire (s : State) (r : Response) : (s.complete r).wire = s.wire := rfl
@[simp] theorem complete_freeIdx (s : State) (r : Response) : (s.complete r).freeIdx = s.freeIdx := rfl

@[simp] theorem failShort_cnt (s : State) (p : XferPhase) (m n : Nat) : (s.failShort p m n).cnt = s.cnt := rfl
@[simp] theorem failShort_chOpen (s : State) (p : XferPhase) (m n : Nat) : (s.failShort p m n).chOpen = s.chOpen := rfl
@[simp] theorem failShort_chLink (s : State) (p : XferPhase) (m n : Nat) : (s.failShort p m n).chLink = s.chLink := rfl
@[simp] theorem failShort_desync (s : State) (p : XferPhase) (m n : Nat) : (s.failShort p m n).desync = true := rfl
@[simp] theorem failShort_seqPhase (s : State) (p : XferPhase) (m n : Nat) : (s.failShort p m n).seqPhase = .idle := rfl
@[simp] theorem failShort_seqCtx (s : State) (p : XferPhase) (m n : Nat) : (s.failShort p m n).seqCtx = s.seqCtx := rfl
@[simp] theorem failShort_maskShadow (s : State) (p : XferPhase) (m n : Nat) : (s.failShort p m n).maskShadow = s.maskShadow := rfl
@[simp] theorem failShort_crcAcc (s : State) (p : XferPhase) (m n : Nat) : (s.failShort p m n).crcAcc = s.crcAcc := rfl
@[simp] theorem failShort_pending (s : State) (p : XferPhase) (m n : Nat) : (s.failShort p m n).pending = s.pending.set s.seqCtx.owner.toNat none s.seqCtx.owner.isLt := rfl
@[simp] theorem failShort_refusedRun (s : State) (p : XferPhase) (m n : Nat) : (s.failShort p m n).refusedRun = s.refusedRun := rfl
@[simp] theorem failShort_cfg (s : State) (p : XferPhase) (m n : Nat) : (s.failShort p m n).cfg = s.cfg := rfl
@[simp] theorem failShort_agenda (s : State) (p : XferPhase) (m n : Nat) : (s.failShort p m n).agenda = s.agenda := rfl
@[simp] theorem failShort_inputs (s : State) (p : XferPhase) (m n : Nat) : (s.failShort p m n).inputs = s.inputs := rfl
@[simp] theorem failShort_responses (s : State) (p : XferPhase) (m n : Nat) : (s.failShort p m n).responses = (s.seqCtx.owner, ⟨.shortTransfer, .short p m n⟩) :: s.responses := rfl
@[simp] theorem failShort_wire (s : State) (p : XferPhase) (m n : Nat) : (s.failShort p m n).wire = s.wire := rfl
@[simp] theorem failShort_freeIdx (s : State) (p : XferPhase) (m n : Nat) : (s.failShort p m n).freeIdx = s.freeIdx := rfl

/-! The results of a read (R211, R212, R213). -/

@[simp] theorem completeRecord_cnt (s : State) (k : Kind) (rx : List Byte) : (s.completeRecord k rx).cnt = s.cnt := rfl
@[simp] theorem completeRecord_chOpen (s : State) (k : Kind) (rx : List Byte) : (s.completeRecord k rx).chOpen = s.chOpen := rfl
@[simp] theorem completeRecord_chLink (s : State) (k : Kind) (rx : List Byte) : (s.completeRecord k rx).chLink = s.chLink := rfl
@[simp] theorem completeRecord_desync (s : State) (k : Kind) (rx : List Byte) : (s.completeRecord k rx).desync = s.desync := rfl
@[simp] theorem completeRecord_seqCtx (s : State) (k : Kind) (rx : List Byte) : (s.completeRecord k rx).seqCtx = s.seqCtx := rfl
@[simp] theorem completeRecord_maskShadow (s : State) (k : Kind) (rx : List Byte) : (s.completeRecord k rx).maskShadow = s.maskShadow := rfl
@[simp] theorem completeRecord_refusedRun (s : State) (k : Kind) (rx : List Byte) : (s.completeRecord k rx).refusedRun = s.refusedRun := rfl
@[simp] theorem completeRecord_cfg (s : State) (k : Kind) (rx : List Byte) : (s.completeRecord k rx).cfg = s.cfg := rfl
@[simp] theorem completeRecord_agenda (s : State) (k : Kind) (rx : List Byte) : (s.completeRecord k rx).agenda = s.agenda := rfl
@[simp] theorem completeRecord_inputs (s : State) (k : Kind) (rx : List Byte) : (s.completeRecord k rx).inputs = s.inputs := rfl
@[simp] theorem completeRecord_wire (s : State) (k : Kind) (rx : List Byte) : (s.completeRecord k rx).wire = s.wire := rfl
@[simp] theorem completeRecord_freeIdx (s : State) (k : Kind) (rx : List Byte) : (s.completeRecord k rx).freeIdx = s.freeIdx := rfl
@[simp] theorem completeRecord_seqPhase (s : State) (k : Kind) (rx : List Byte) : (s.completeRecord k rx).seqPhase = .idle := rfl
@[simp] theorem completeRecord_pending (s : State) (k : Kind) (rx : List Byte) :
    (s.completeRecord k rx).pending = s.pending.set s.seqCtx.owner.toNat none s.seqCtx.owner.isLt := rfl
@[simp] theorem completeRecord_crcAcc (s : State) (k : Kind) (rx : List Byte) :
    (s.completeRecord k rx).crcAcc = (decodeRecord s.cfg k s.crcAcc rx).2 := rfl
@[simp] theorem completeRecord_responses (s : State) (k : Kind) (rx : List Byte) :
    (s.completeRecord k rx).responses = (s.seqCtx.owner, (decodeRecord s.cfg k s.crcAcc rx).1) :: s.responses := rfl

@[simp] theorem completeMask_cnt (s : State) (rx : List Byte) : (s.completeMask rx).cnt = s.cnt := rfl
@[simp] theorem completeMask_chOpen (s : State) (rx : List Byte) : (s.completeMask rx).chOpen = s.chOpen := rfl
@[simp] theorem completeMask_chLink (s : State) (rx : List Byte) : (s.completeMask rx).chLink = s.chLink := rfl
@[simp] theorem completeMask_desync (s : State) (rx : List Byte) : (s.completeMask rx).desync = s.desync := rfl
@[simp] theorem completeMask_seqCtx (s : State) (rx : List Byte) : (s.completeMask rx).seqCtx = s.seqCtx := rfl
@[simp] theorem completeMask_maskShadow (s : State) (rx : List Byte) : (s.completeMask rx).maskShadow = s.maskShadow := rfl
@[simp] theorem completeMask_refusedRun (s : State) (rx : List Byte) : (s.completeMask rx).refusedRun = s.refusedRun := rfl
@[simp] theorem completeMask_cfg (s : State) (rx : List Byte) : (s.completeMask rx).cfg = s.cfg := rfl
@[simp] theorem completeMask_agenda (s : State) (rx : List Byte) : (s.completeMask rx).agenda = s.agenda := rfl
@[simp] theorem completeMask_inputs (s : State) (rx : List Byte) : (s.completeMask rx).inputs = s.inputs := rfl
@[simp] theorem completeMask_wire (s : State) (rx : List Byte) : (s.completeMask rx).wire = s.wire := rfl
@[simp] theorem completeMask_freeIdx (s : State) (rx : List Byte) : (s.completeMask rx).freeIdx = s.freeIdx := rfl
@[simp] theorem completeMask_seqPhase (s : State) (rx : List Byte) : (s.completeMask rx).seqPhase = .idle := rfl
@[simp] theorem completeMask_pending (s : State) (rx : List Byte) :
    (s.completeMask rx).pending = s.pending.set s.seqCtx.owner.toNat none s.seqCtx.owner.isLt := rfl
@[simp] theorem completeMask_crcAcc (s : State) (rx : List Byte) :
    (s.completeMask rx).crcAcc = (parseComposite s.cfg s.seqCtx.mask s.crcAcc rx).2 := rfl
@[simp] theorem completeMask_responses (s : State) (rx : List Byte) :
    (s.completeMask rx).responses = (s.seqCtx.owner, (parseComposite s.cfg s.seqCtx.mask s.crcAcc rx).1) :: s.responses := rfl

@[simp] theorem completeByte_cnt (s : State) (rx : List Byte) : (s.completeByte rx).cnt = s.cnt := rfl
@[simp] theorem completeByte_chOpen (s : State) (rx : List Byte) : (s.completeByte rx).chOpen = s.chOpen := rfl
@[simp] theorem completeByte_chLink (s : State) (rx : List Byte) : (s.completeByte rx).chLink = s.chLink := rfl
@[simp] theorem completeByte_desync (s : State) (rx : List Byte) : (s.completeByte rx).desync = s.desync := rfl
@[simp] theorem completeByte_seqCtx (s : State) (rx : List Byte) : (s.completeByte rx).seqCtx = s.seqCtx := rfl
@[simp] theorem completeByte_maskShadow (s : State) (rx : List Byte) : (s.completeByte rx).maskShadow = s.maskShadow := rfl
@[simp] theorem completeByte_refusedRun (s : State) (rx : List Byte) : (s.completeByte rx).refusedRun = s.refusedRun := rfl
@[simp] theorem completeByte_cfg (s : State) (rx : List Byte) : (s.completeByte rx).cfg = s.cfg := rfl
@[simp] theorem completeByte_agenda (s : State) (rx : List Byte) : (s.completeByte rx).agenda = s.agenda := rfl
@[simp] theorem completeByte_inputs (s : State) (rx : List Byte) : (s.completeByte rx).inputs = s.inputs := rfl
@[simp] theorem completeByte_wire (s : State) (rx : List Byte) : (s.completeByte rx).wire = s.wire := rfl
@[simp] theorem completeByte_freeIdx (s : State) (rx : List Byte) : (s.completeByte rx).freeIdx = s.freeIdx := rfl
@[simp] theorem completeByte_seqPhase (s : State) (rx : List Byte) : (s.completeByte rx).seqPhase = .idle := rfl
@[simp] theorem completeByte_pending (s : State) (rx : List Byte) :
    (s.completeByte rx).pending = s.pending.set s.seqCtx.owner.toNat none s.seqCtx.owner.isLt := rfl
@[simp] theorem completeByte_crcAcc (s : State) (rx : List Byte) : (s.completeByte rx).crcAcc = s.crcAcc := rfl
@[simp] theorem completeByte_responses (s : State) (rx : List Byte) :
    (s.completeByte rx).responses = (s.seqCtx.owner, ⟨.ok, .value (byteAt rx 0)⟩) :: s.responses := rfl

/-! A request at the port (R31). -/

@[simp] theorem issue_cnt (s : State) (r : Request) : (s.issue r).cnt = s.cnt := by unfold issue; split <;> rfl
@[simp] theorem issue_chOpen (s : State) (r : Request) : (s.issue r).chOpen = s.chOpen := by unfold issue; split <;> rfl
@[simp] theorem issue_chLink (s : State) (r : Request) : (s.issue r).chLink = s.chLink := by unfold issue; split <;> rfl
@[simp] theorem issue_desync (s : State) (r : Request) : (s.issue r).desync = s.desync := by unfold issue; split <;> rfl
@[simp] theorem issue_seqPhase (s : State) (r : Request) : (s.issue r).seqPhase = s.seqPhase := by unfold issue; split <;> rfl
@[simp] theorem issue_seqCtx (s : State) (r : Request) : (s.issue r).seqCtx = s.seqCtx := by unfold issue; split <;> rfl
@[simp] theorem issue_maskShadow (s : State) (r : Request) : (s.issue r).maskShadow = s.maskShadow := by unfold issue; split <;> rfl
@[simp] theorem issue_crcAcc (s : State) (r : Request) : (s.issue r).crcAcc = s.crcAcc := by unfold issue; split <;> rfl
@[simp] theorem issue_refusedRun (s : State) (r : Request) : (s.issue r).refusedRun = s.refusedRun := by unfold issue; split <;> rfl
@[simp] theorem issue_cfg (s : State) (r : Request) : (s.issue r).cfg = s.cfg := by unfold issue; split <;> rfl
@[simp] theorem issue_agenda (s : State) (r : Request) : (s.issue r).agenda = s.agenda := by unfold issue; split <;> rfl
@[simp] theorem issue_inputs (s : State) (r : Request) : (s.issue r).inputs = s.inputs := by unfold issue; split <;> rfl
@[simp] theorem issue_responses (s : State) (r : Request) : (s.issue r).responses = s.responses := by unfold issue; split <;> rfl
@[simp] theorem issue_wire (s : State) (r : Request) : (s.issue r).wire = s.wire := by unfold issue; split <;> rfl
@[simp] theorem issue_freeIdx (s : State) (r : Request) : (s.issue r).freeIdx = s.freeIdx := by unfold issue; split <;> rfl

/-- A caller's own slot of PENDING after it is written. -/
@[simp] theorem pendingOf_setPending_self (s : State) (c : Caller) (r : Option Request) :
    (s.setPending c r).pendingOf c = r := by
  simp [pendingOf]

/-- The other callers' slots of PENDING after one is written. -/
theorem pendingOf_setPending_ne (s : State) {c c' : Caller} (r : Option Request) (h : c' ≠ c) :
    (s.setPending c r).pendingOf c' = s.pendingOf c' := by
  have : c.toNat ≠ c'.toNat := fun e => h (BitVec.eq_of_toNat_eq e.symm)
  simp [pendingOf, Vector.getElem_set_ne, this]

@[simp] theorem pendingOf_respond_self (s : State) (c : Caller) (r : Response) :
    (s.respond c r).pendingOf c = none := by
  simp [pendingOf]

theorem pendingOf_respond_ne (s : State) {c c' : Caller} (r : Response) (h : c' ≠ c) :
    (s.respond c r).pendingOf c' = s.pendingOf c' :=
  pendingOf_setPending_ne s none h

/-- A counter after it is written. -/
@[simp] theorem counter_setCounter_self (s : State) (k : TKind) (v : Word) : (s.setCounter k v).counter k = v := by
  simp [counter]

/-- The other counters after one is written. -/
theorem counter_setCounter_ne (s : State) {k k' : TKind} (v : Word) (h : k' ≠ k) :
    (s.setCounter k v).counter k' = s.counter k' := by
  have : (k.idx : Nat) ≠ k'.idx := by revert h; cases k <;> cases k' <;> decide
  simp [counter, Vector.getElem_set_ne, this]

end Sys2Proof.Machine.State
end

