-- ==== Sys2Proof/Laws/Ops.lean ====
section
/-! SUPPORT. What each shared operation can do, said once: the inversion of the exclusion (R62), of the transport's
phases (R206, R210), of the commands in flight, of the fetch, and of exec and step as a whole. -/

namespace Sys2Proof.Machine

theorem whenIdle_next {s go t : State} (h : whenIdle s go = .next t) :
    (s.seqPhase = .idle ∧ t = go) ∨ ((s.seqPhase = .write ∨ s.seqPhase = .read) ∧ t = s) := by
  unfold whenIdle at h
  split at h <;> simp_all

theorem transmit_next {s t : State} {tx : List Byte} {done : State → State} (h : transmit s tx done = .next t) :
    (s.inputs.txCount < tx.length
      ∧ t = (s.logTransfer (.tx s.seqCtx.t tx s.inputs.txCount)).failShort .write s.inputs.txCount tx.length)
    ∨ (s.inputs.txCount = tx.length ∧ t = done (s.logTransfer (.tx s.seqCtx.t tx s.inputs.txCount))) := by
  unfold transmit at h
  split at h
  · cases h
  · split at h
    · exact .inl ⟨by assumption, by simpa using h.symm⟩
    · exact .inr ⟨by omega, by simpa using h.symm⟩

/-- What the read phase puts on the transport port (R209, R210). -/
def readTransfer (s : State) : Transfer :=
  .rx s.seqCtx.t s.seqCtx.n (readFill s.seqCtx.t s.seqCtx.n) s.inputs.rx

theorem receive_next {s t : State} {result : State → List Byte → State} (h : receive s result = .next t) :
    (s.inputs.rx.length < s.seqCtx.n
      ∧ t = (s.logTransfer (readTransfer s)).failShort .read s.inputs.rx.length s.seqCtx.n)
    ∨ (s.inputs.rx.length = s.seqCtx.n ∧ t = result (s.logTransfer (readTransfer s)) s.inputs.rx) := by
  unfold receive at h
  split at h
  · cases h
  · simp only at h
    split at h
    · exact .inl ⟨by assumption, by simpa [readTransfer] using h.symm⟩
    · exact .inr ⟨by omega, by simpa [readTransfer] using h.symm⟩

theorem writeCommand_next {s t : State} {tx : List Byte} {done : State → State} (h : writeCommand s tx done = .next t) :
    s.seqPhase = .write ∧ transmit s tx (fun s1 => (done s1).complete ⟨.ok, .none⟩) = .next t := by
  unfold writeCommand at h
  split at h <;> simp_all

theorem readCommand_next {s t : State} {tx : List Byte} {result : State → List Byte → State}
    (h : readCommand s tx result = .next t) :
    (s.seqPhase = .write ∧ transmit s tx enterRead = .next t) ∨ (s.seqPhase = .read ∧ receive s result = .next t) := by
  unfold readCommand at h
  split at h <;> simp_all

/-- A status of DECODE (R106). -/
theorem decodeRecord_status (cfg : Config) (k : Kind) (acc : Word) (d : List Byte) :
    (decodeRecord cfg k acc d).1.status ≠ .shortTransfer := by
  unfold decodeRecord
  split
  · simp
  · simp only; split <;> simp

/-- A status of PARSE (R181). -/
theorem parseComposite_status (cfg : Config) (m : Byte) (acc : Word) (d : List Byte) :
    (parseComposite cfg m acc d).1.status ≠ .shortTransfer := by
  unfold parseComposite parseResponse
  simp only
  split
  · simp
  · split
    · simp
    · split <;> simp

/-- A catalog command is no request-port instruction (R3). -/
theorem asker_of_command {i : Instr} {cmd : Command} (h : i.command = some cmd) : i.asker = none := by
  cases i <;> first | rfl | cases h

/-- What an instruction can do to a state, every case. -/
inductive Effect : Instr → State → State → Prop where
  /-- A request-port operation answers its caller; of the block's state only `S.CRC_ACC` may change. -/
  | answers {i s} (c : Caller) (r : Response) (acc : Word) :
      i.asker = some c → i.nonChannel = true ∨ s.seqPhase = .idle → r.status ≠ .shortTransfer →
      Effect i s ({ s with crcAcc := acc }.respond c r)
  /-- TICK (R172). -/
  | ticks {s} (c : Caller) (k : TKind) :
      Effect (.tick c k) s ((s.setCounter k (s.counter k + 1#32)).respond c ⟨.ok, .none⟩)
  /-- A refused request (R247). -/
  | refuses {i s} (c : Caller) : (∃ m, i = .build c m) ∨ (∃ why r, i = .illegalRequest why r ∧ r.caller = c) →
      Effect i s (s.refuseRequest c)
  /-- A channel operation holds (R62). -/
  | holds {i s} (c : Caller) : i.asker = some c → s.seqPhase = .write ∨ s.seqPhase = .read → Effect i s s
  /-- OPEN (R201). -/
  | opens {s} (c : Caller) (l : Link) : s.seqPhase = .idle →
      Effect (.openChannel c l) s ({ s with chOpen := true, chLink := l, desync := false }.respond c ⟨.ok, .none⟩)
  /-- CLOSE (R202). -/
  | closes {s} (c : Caller) : s.seqPhase = .idle →
      Effect (.closeChannel c) s ({ s with chOpen := false, desync := false }.respond c ⟨.ok, .none⟩)
  /-- EXEC enters the write phase (R205). -/
  | issues {s} (c : Caller) (op : Byte) (tr : Transport) (d : List Byte) (cmd : Command) :
      s.seqPhase = .idle → s.chOpen = true → tr.link = s.chLink → entry s.cfg op = some cmd →
      permitted s.cfg op tr = true → d.length = bodyLen s.cfg cmd →
      Effect (.exec c op tr d) s
        { s with crcAcc := issueAcc cmd s.crcAcc d, seqCtx := issueCtx s c cmd op tr d, seqPhase := .write }
  /-- A short phase (R206, R210). -/
  | short {i s} (x : Transfer) (p : XferPhase) (m n : Nat) : i.asker = none → s.seqPhase = .write ∨ s.seqPhase = .read →
      Effect i s ((s.logTransfer x).failShort p m n)
  /-- SET_MASK is complete (R207). -/
  | masks {s} (m : Byte) (x : Transfer) : s.seqPhase = .write → s.inputs.txCount = 2 →
      Effect (.setMask m) s ({ s.logTransfer x with maskShadow := m }.complete ⟨.ok, .none⟩)
  /-- The read phase begins (R208). -/
  | enters {i s} (cmd : Command) (x : Transfer) : i.command = some cmd → cmd.cls ≠ .write → s.seqPhase = .write →
      s.seqCtx.n ≠ 0 → Effect i s { s.logTransfer x with seqPhase := .read }
  /-- A transaction is answered, after a transfer (R207, R211 to R214). -/
  | finishes {i s} (x : Transfer) (acc : Word) (r : Response) : i.asker = none → r.status ≠ .shortTransfer →
      s.seqPhase = .write ∨ s.seqPhase = .read →
      Effect i s ({ s.logTransfer x with crcAcc := acc }.complete r)
  /-- An unassigned opcode is answered without a transfer (R91). -/
  | rejects {i s} (r : Response) : i.asker = none → r.status ≠ .shortTransfer → s.seqPhase = .write →
      Effect i s (s.complete r)

theorem effect_of_write {i : Instr} {s t : State} {tx : List Byte} (hi : i.asker = none)
    (h : writeCommand s tx id = .next t) : Effect i s t := by
  obtain ⟨hp, h⟩ := writeCommand_next h
  obtain ⟨-, rfl⟩ | ⟨-, rfl⟩ := transmit_next h
  · exact .short _ _ _ _ hi (.inl hp)
  · exact .finishes (.tx s.seqCtx.t tx s.inputs.txCount) s.crcAcc ⟨.ok, .none⟩ hi (by simp) (.inl hp)

theorem effect_of_read {i : Instr} {cmd : Command} {s t : State} {tx : List Byte}
    {result : State → List Byte → State} (hi : i.asker = none) (hc : i.command = some cmd) (hw : cmd.cls ≠ .write)
    (hr : ∀ s1 rx, ∃ acc r, r.status ≠ .shortTransfer ∧ result s1 rx = { s1 with crcAcc := acc }.complete r)
    (h : readCommand s tx result = .next t) : Effect i s t := by
  obtain ⟨hp, h⟩ | ⟨hp, h⟩ := readCommand_next h
  · obtain ⟨-, rfl⟩ | ⟨-, rfl⟩ := transmit_next h
    · exact .short _ _ _ _ hi (.inl hp)
    · unfold enterRead
      split
      · exact .finishes (.tx s.seqCtx.t tx s.inputs.txCount) _ _ hi (parseComposite_status _ _ _ _) (.inl hp)
      · exact .enters cmd _ hc hw hp (by assumption)
  · obtain ⟨-, rfl⟩ | ⟨-, rfl⟩ := receive_next h
    · exact .short _ _ _ _ hi (.inr hp)
    · obtain ⟨acc, r, hs, e⟩ := hr (s.logTransfer (readTransfer s)) s.inputs.rx
      rw [e]
      exact .finishes (readTransfer s) acc r hi hs (.inr hp)

theorem completeRecord_form (s1 : State) (k : Kind) (rx : List Byte) :
    ∃ acc r, r.status ≠ .shortTransfer ∧ s1.completeRecord k rx = { s1 with crcAcc := acc }.complete r :=
  ⟨_, _, decodeRecord_status _ _ _ _, rfl⟩

theorem completeMask_form (s1 : State) (rx : List Byte) :
    ∃ acc r, r.status ≠ .shortTransfer ∧ s1.completeMask rx = { s1 with crcAcc := acc }.complete r :=
  ⟨_, _, parseComposite_status _ _ _ _, rfl⟩

theorem completeByte_form (s1 : State) (rx : List Byte) :
    ∃ acc r, r.status ≠ .shortTransfer ∧ s1.completeByte rx = { s1 with crcAcc := acc }.complete r :=
  ⟨s1.crcAcc, _, by simp, rfl⟩

theorem issueStep_effect {c : Caller} {op : Byte} {tr : Transport} {d : List Byte} {s : State}
    (hp : s.seqPhase = .idle) : Effect (.exec c op tr d) s (issueStep c op tr d s) := by
  unfold issueStep
  split
  · exact .answers (s := s) c _ s.crcAcc rfl (.inr hp) (by simp)
  · rename_i ho
    split
    · exact .answers (s := s) c _ s.crcAcc rfl (.inr hp) (by simp)
    · rename_i hl
      split
      · exact .answers (s := s) c _ s.crcAcc rfl (.inr hp) (by simp)
      · rename_i cmd he
        split
        · exact .answers (s := s) c _ s.crcAcc rfl (.inr hp) (by simp)
        · rename_i hq
          split
          · exact .answers (s := s) c _ s.crcAcc rfl (.inr hp) (by simp)
          · rename_i hd
            exact .issues c op tr d cmd hp (by simpa using ho) (by simpa using hl) he (by simpa using hq)
              (by simpa using hd)

/-- Whatever an instruction does is one of the effects. -/
theorem exec_effect {i : Instr} {s t : State} (h : exec i s = .next t) : Effect i s t := by
  cases i with
  | crc32 c d => cases h; exact .answers c _ _ rfl (.inl rfl) (by simp)
  | encode c k d =>
    simp only [exec, execEncode] at h
    split at h
    · cases h; exact .answers (s := s) c _ s.crcAcc rfl (.inl rfl) (by simp)
    · cases h; exact .answers c _ _ rfl (.inl rfl) (by simp)
  | decode c k d => cases h; exact .answers c _ _ rfl (.inl rfl) (decodeRecord_status _ _ _ _)
  | classify c op tr => cases h; exact .answers (s := s) c _ s.crcAcc rfl (.inl rfl) (by simp)
  | tick c k => cases h; exact .ticks c k
  | build c m =>
    simp only [exec, execBuild] at h
    split at h
    · cases h; exact .answers c _ _ rfl (.inl rfl) (by simp)
    · cases h; exact .refuses c (.inl ⟨m, rfl⟩)
  | parse c m d => cases h; exact .answers c _ _ rfl (.inl rfl) (parseComposite_status _ _ _ _)
  | openChannel c l =>
    obtain ⟨hp, rfl⟩ | ⟨hp, rfl⟩ := whenIdle_next h
    · exact .opens c l hp
    · exact .holds c rfl hp
  | closeChannel c =>
    obtain ⟨hp, rfl⟩ | ⟨hp, rfl⟩ := whenIdle_next h
    · exact .closes c hp
    · exact .holds c rfl hp
  | exec c op tr d =>
    obtain ⟨hp, rfl⟩ | ⟨hp, rfl⟩ := whenIdle_next h
    · exact issueStep_effect hp
    · exact .holds c rfl hp
  | illegalRequest why r => cases h; exact .refuses _ (.inr ⟨why, r, rfl, rfl⟩)
  | setMask m =>
    obtain ⟨hp, h⟩ := writeCommand_next h
    obtain ⟨-, rfl⟩ | ⟨hn, rfl⟩ := transmit_next h
    · exact .short _ _ _ _ rfl (.inl hp)
    · exact .masks m (.tx s.seqCtx.t [s.cfg.op .setMask, m] s.inputs.txCount) hp hn
  | setDabP | setDabV | setTunerOptP | setTunerOptV | setProcOptP | setProcOptV | setTunerReg | setSerial
  | setPwsConfig | setDfuMode | setDfuBlock => exact effect_of_write rfl h
  | getDabP | getDabV | getTunerOptP | getTunerOptV | getProcOptP | getProcOptV | getSerial | getPwsStatus
  | getVersion | getDfuMode | getDfuAck => exact effect_of_read rfl rfl (by decide) (completeRecord_form · _ ·) h
  | getMaskData => exact effect_of_read rfl rfl (by decide) completeMask_form h
  | getPing => exact effect_of_read rfl rfl (by decide) completeByte_form h
  | unassignedProtocolOpcode op req =>
    simp only [exec, execUnassignedProtocolOpcode] at h
    split at h <;> first | cases h; done | skip
    rename_i hp
    cases h
    exact .rejects _ rfl (by simp) hp

/-- A request-port instruction comes from a request only, and asks for its caller (R85). -/
theorem asker_decodeRequest (cfg : Config) (r : Request) : (decodeRequest cfg r).asker = some r.caller := by
  unfold decodeRequest
  split
  · rfl
  · split
    · unfold decodeFields
      split <;> first | rfl | (split <;> rfl)
    · rfl

/-- The write-phase bytes spell a protocol instruction only (R81). -/
theorem asker_decodeWire {cfg : Config} {bs : List Byte} {i : Instr} (h : decodeWire cfg bs = .ok i) :
    i.asker = none := by
  have hrec : ∀ k req mk, (∀ b t, (mk b t : Instr).asker = none) → recordInstr cfg k req mk = .ok i →
      i.asker = none := by
    intro k req mk hmk h
    unfold recordInstr at h
    split at h <;> cases h
    exact hmk _ _
  have hread : ∀ req j, j.asker = none → readInstr req j = .ok i → i.asker = none := by
    intro req j hj h
    unfold readInstr at h
    split at h <;> cases h
    exact hj
  unfold decodeWire at h
  split at h
  · cases h
  · split at h
    · unfold commandInstr at h
      split at h <;> first
        | exact hrec _ _ _ (fun _ _ => rfl) h
        | exact hread _ _ rfl h
        | (unfold maskInstr at h; split at h <;> cases h; rfl)
    · cases h; rfl

/-- What one step can be, every case: the machine waits, an agent's step runs no instruction, or it runs one. -/
inductive StepCase : State → State → Prop where
  /-- The agenda is empty (R272). -/
  | waits {s} : s.agenda = [] → StepCase s s
  /-- A request is issued (R31). -/
  | issue {s} (r : Request) (rest : List Event) : s.agenda = .issue r :: rest →
      StepCase s ({ s with agenda := rest }.issue r)
  /-- A payload is presented (R14). -/
  | sample {s} (k : TKind) (p : List Byte) (rest : List Event) : s.agenda = .sample k p :: rest →
      StepCase s ({ s with agenda := rest }.present k p)
  /-- RESET (R270). -/
  | reset {s} (rest : List Event) : s.agenda = .reset :: rest → StepCase s { s with agenda := rest }.takeReset
  /-- The agent named cannot step now: only the agenda's entry goes. -/
  | skips {s} (e : Event) (rest : List Event) : s.agenda = e :: rest → StepCase s { s with agenda := rest }
  /-- A pending request takes its step (R59). -/
  | runs {s t} (c : Caller) (r : Request) (rest : List Event) : s.agenda = .take c :: rest → s.pendingOf c = some r →
      Effect (decodeRequest s.cfg r) { s with agenda := rest } t → StepCase s t
  /-- The transport takes the write-phase step (R206). -/
  | writes {s t} (m : Nat) (rest : List Event) (i : Instr) : s.agenda = .txPhase m :: rest → s.seqPhase = .write →
      decodeWire s.cfg s.seqCtx.tx = .ok i →
      exec i { s with agenda := rest, inputs := { s.inputs with txCount := m } } = .next t →
      Effect i { s with agenda := rest, inputs := { s.inputs with txCount := m } } t → StepCase s t
  /-- The transport takes the read-phase step (R210). -/
  | reads {s t} (rx : List Byte) (rest : List Event) (i : Instr) : s.agenda = .rxPhase rx :: rest →
      s.seqPhase = .read → decodeWire s.cfg s.seqCtx.tx = .ok i →
      exec i { s with agenda := rest, inputs := { s.inputs with rx := rx } } = .next t →
      Effect i { s with agenda := rest, inputs := { s.inputs with rx := rx } } t → StepCase s t

/-- A step's configuration is well-formed (R8). -/
theorem step_cfg_wf {s t : State} (h : step s = .next t) : s.cfg.wf = true := by
  unfold step at h
  split at h
  · assumption
  · cases h

theorem step_eq {s : State} (h : s.cfg.wf = true) :
    step s = match fetch s with
      | .run i s1 => exec i s1
      | .quiet s1 => .next s1
      | .stop f => .fault f := by
  exact if_pos h

theorem fetchPhase_run {s s1 s2 : State} {p : SeqPhase} {i : Instr} (h : fetchPhase s p s1 = .run i s2) :
    s.seqPhase = p ∧ s2 = s1 ∧ decodeWire s1.cfg s1.seqCtx.tx = .ok i := by
  unfold fetchPhase at h
  split at h
  · cases h
  · split at h
    · unfold fetchWire at h
      split at h <;> cases h
      exact ⟨by assumption, rfl, by assumption⟩
    · cases h

theorem fetchPhase_quiet {s s1 s2 : State} {p : SeqPhase} (h : fetchPhase s p s1 = .quiet s2) : s2 = s := by
  unfold fetchPhase at h
  split at h
  · cases h
  · split at h
    · unfold fetchWire at h
      split at h <;> cases h
    · cases h; rfl

/-- Whatever a step does is one of the cases. -/
theorem step_cases {s t : State} (h : step s = .next t) : StepCase s t := by
  rw [step_eq (step_cfg_wf h)] at h
  unfold fetch at h
  cases ha : s.agenda with
  | nil => rw [ha] at h; cases h; exact .waits ha
  | cons e rest =>
    rw [ha] at h
    cases e with
    | issue r => cases h; exact .issue r rest ha
    | sample k p => cases h; exact .sample k p rest ha
    | reset => cases h; exact .reset rest ha
    | take c =>
      simp only [fetchEvent, fetchRequest] at h
      cases hq : s.pendingOf c with
      | none =>
        rw [show State.pendingOf { s with agenda := rest } c = none from hq] at h
        cases h; exact .skips _ rest ha
      | some r =>
        rw [show State.pendingOf { s with agenda := rest } c = some r from hq] at h
        exact .runs c r rest ha hq (exec_effect h)
    | txPhase m =>
      simp only [fetchEvent] at h
      split at h
      · rename_i i s2 hf
        obtain ⟨hp, rfl, hw⟩ := fetchPhase_run hf
        exact .writes m rest i ha hp hw h (exec_effect h)
      · rename_i s2 hf
        cases h; rw [fetchPhase_quiet hf]; exact .skips _ rest ha
      · cases h
    | rxPhase rx =>
      simp only [fetchEvent] at h
      split at h
      · rename_i i s2 hf
        obtain ⟨hp, rfl, hw⟩ := fetchPhase_run hf
        exact .reads rx rest i ha hp hw h (exec_effect h)
      · rename_i s2 hf
        cases h; rw [fetchPhase_quiet hf]; exact .skips _ rest ha
      · cases h

end Sys2Proof.Machine
end

