-- ==== Sys2Proof/Laws/PerInstr.lean ====
section
/-! SUPPORT. Per-instruction families: a statement about an instruction's encoding, and one lemma per constructor. -/

namespace Sys2Proof.Laws.EncodingLength

open Sys2Proof.Machine

/-- How many bytes an instruction's encoding has and which byte comes first: a request has at least OPC, A, B and the
caller (R85, log 1); a catalog command has its opcode first and then the bytes its opcode implies (R81, R83); an
unassigned opcode has at least its opcode byte, which no entry takes (R91). -/
def Statement (i : Instr) : Prop :=
  ∀ cfg : Config, cfg.wf = true → i.wf cfg = true →
    match i.space with
    | .request => 4 ≤ (encodeInstr cfg i).length ∧ ∃ c, i.asker = some c
    | .protocol => i.asker = none ∧ ∃ op req, encodeInstr cfg i = op :: req ∧ entry cfg op = i.command
        ∧ ∀ cmd, i.command = some cmd → req.length = reqLen cfg cmd

/-- The request port's instructions. -/
theorem of_request {i : Instr} {r : Request} {c : Caller} (hs : i.space = .request) (ha : i.asker = some c)
    (he : ∀ cfg, encodeInstr cfg i = bytesOfRequest r) : Statement i := by
  intro cfg _ _
  rw [hs]
  exact ⟨by rw [he]; simp [bytesOfRequest], c, ha⟩

/-- The write commands that carry a record. -/
theorem of_record {i : Instr} {cmd : Command} {k : Kind} {body : List Byte} {trailer : Word}
    (hs : i.space = .protocol) (ha : i.asker = none) (hc : i.command = some cmd) (hk : cmd.req = .record k)
    (hw : ∀ cfg, i.wf cfg = recordOk cfg k body trailer)
    (he : ∀ cfg, encodeInstr cfg i = wireRecord cfg cmd body trailer) : Statement i := by
  intro cfg hcfg hi
  rw [hs]
  refine ⟨ha, cfg.op cmd, body ++ le32bytes trailer, he cfg, by rw [entry_op hcfg, hc], fun cmd' h => ?_⟩
  cases hc.symm.trans h
  have hl : body.length + 4 = cfg.size k := by
    have := hw cfg ▸ hi
    simp only [recordOk, Bool.and_eq_true, beq_iff_eq] at this
    exact this.1
  simp [reqLen, hk, hl]

/-- The read commands: the opcode byte alone. -/
theorem of_read {i : Instr} {cmd : Command} (hs : i.space = .protocol) (ha : i.asker = none)
    (hc : i.command = some cmd) (hk : cmd.req = .none) (he : ∀ cfg, encodeInstr cfg i = [cfg.op cmd]) :
    Statement i := by
  intro cfg hcfg _
  rw [hs]
  refine ⟨ha, cfg.op cmd, [], he cfg, by rw [entry_op hcfg, hc], fun cmd' h => ?_⟩
  cases hc.symm.trans h
  simp [reqLen, hk]

theorem crc32 (c : Caller) (d : List Byte) : Statement (.crc32 c d) := of_request rfl rfl fun _ => rfl

theorem encode (c : Caller) (k : Kind) (d : List Byte) : Statement (.encode c k d) := of_request rfl rfl fun _ => rfl

theorem decode (c : Caller) (k : Kind) (d : List Byte) : Statement (.decode c k d) := of_request rfl rfl fun _ => rfl

theorem classify (c : Caller) (op : Byte) (t : Transport) : Statement (.classify c op t) :=
  of_request rfl rfl fun _ => rfl

theorem tick (c : Caller) (k : TKind) : Statement (.tick c k) := of_request rfl rfl fun _ => rfl

theorem build (c : Caller) (m : Byte) : Statement (.build c m) := of_request rfl rfl fun _ => rfl

theorem parse (c : Caller) (m : Byte) (d : List Byte) : Statement (.parse c m d) := of_request rfl rfl fun _ => rfl

theorem openChannel (c : Caller) (l : Link) : Statement (.openChannel c l) := of_request rfl rfl fun _ => rfl

theorem closeChannel (c : Caller) : Statement (.closeChannel c) := of_request rfl rfl fun _ => rfl

theorem exec (c : Caller) (op : Byte) (t : Transport) (d : List Byte) : Statement (.exec c op t d) :=
  of_request rfl rfl fun _ => rfl

theorem illegalRequest (why : IllegalReason) (r : Request) : Statement (.illegalRequest why r) :=
  of_request rfl rfl fun _ => rfl

theorem setDabP (body : List Byte) (trailer : Word) : Statement (.setDabP body trailer) :=
  of_record rfl rfl rfl rfl (fun _ => rfl) fun _ => rfl

theorem setDabV (body : List Byte) (trailer : Word) : Statement (.setDabV body trailer) :=
  of_record rfl rfl rfl rfl (fun _ => rfl) fun _ => rfl

theorem setTunerOptP (body : List Byte) (trailer : Word) : Statement (.setTunerOptP body trailer) :=
  of_record rfl rfl rfl rfl (fun _ => rfl) fun _ => rfl

theorem setTunerOptV (body : List Byte) (trailer : Word) : Statement (.setTunerOptV body trailer) :=
  of_record rfl rfl rfl rfl (fun _ => rfl) fun _ => rfl

theorem setProcOptP (body : List Byte) (trailer : Word) : Statement (.setProcOptP body trailer) :=
  of_record rfl rfl rfl rfl (fun _ => rfl) fun _ => rfl

theorem setProcOptV (body : List Byte) (trailer : Word) : Statement (.setProcOptV body trailer) :=
  of_record rfl rfl rfl rfl (fun _ => rfl) fun _ => rfl

theorem setTunerReg (body : List Byte) (trailer : Word) : Statement (.setTunerReg body trailer) :=
  of_record rfl rfl rfl rfl (fun _ => rfl) fun _ => rfl

theorem setSerial (body : List Byte) (trailer : Word) : Statement (.setSerial body trailer) :=
  of_record rfl rfl rfl rfl (fun _ => rfl) fun _ => rfl

theorem setPwsConfig (body : List Byte) (trailer : Word) : Statement (.setPwsConfig body trailer) :=
  of_record rfl rfl rfl rfl (fun _ => rfl) fun _ => rfl

theorem setMask (m : Byte) : Statement (.setMask m) := by
  intro cfg hcfg _
  refine ⟨rfl, cfg.op .setMask, [m], rfl, by rw [entry_op hcfg]; rfl, fun cmd h => ?_⟩
  cases h
  rfl

theorem setDfuMode (body : List Byte) (trailer : Word) : Statement (.setDfuMode body trailer) :=
  of_record rfl rfl rfl rfl (fun _ => rfl) fun _ => rfl

theorem setDfuBlock (body : List Byte) (trailer : Word) : Statement (.setDfuBlock body trailer) :=
  of_record rfl rfl rfl rfl (fun _ => rfl) fun _ => rfl

theorem getDabP : Statement .getDabP := of_read rfl rfl rfl rfl fun _ => rfl

theorem getDabV : Statement .getDabV := of_read rfl rfl rfl rfl fun _ => rfl

theorem getTunerOptP : Statement .getTunerOptP := of_read rfl rfl rfl rfl fun _ => rfl

theorem getTunerOptV : Statement .getTunerOptV := of_read rfl rfl rfl rfl fun _ => rfl

theorem getProcOptP : Statement .getProcOptP := of_read rfl rfl rfl rfl fun _ => rfl

theorem getProcOptV : Statement .getProcOptV := of_read rfl rfl rfl rfl fun _ => rfl

theorem getSerial : Statement .getSerial := of_read rfl rfl rfl rfl fun _ => rfl

theorem getPwsStatus : Statement .getPwsStatus := of_read rfl rfl rfl rfl fun _ => rfl

theorem getVersion : Statement .getVersion := of_read rfl rfl rfl rfl fun _ => rfl

theorem getDfuMode : Statement .getDfuMode := of_read rfl rfl rfl rfl fun _ => rfl

theorem getDfuAck : Statement .getDfuAck := of_read rfl rfl rfl rfl fun _ => rfl

theorem getMaskData : Statement .getMaskData := of_read rfl rfl rfl rfl fun _ => rfl

theorem getPing : Statement .getPing := of_read rfl rfl rfl rfl fun _ => rfl

theorem unassignedProtocolOpcode (op : Byte) (req : List Byte) : Statement (.unassignedProtocolOpcode op req) := by
  intro cfg _ hi
  refine ⟨rfl, op, req, rfl, ?_, fun cmd h => by cases h⟩
  simpa [Instr.wf, Instr.command] using hi

end Sys2Proof.Laws.EncodingLength
end

