-- ==== Sys2Proof/Machine/Assembly.lean ====
section
/-! DEFINITION. The assembler notation of requests (R92, R93), as a syntax tree: what a line of a program stands for at
the request port. There are no pseudo-instructions (R93). -/

namespace Sys2Proof.Machine

/-- An opcode operand: a catalog name, which stands for its configured value, or a value (R92, R93). -/
inductive AsmOpcode where
  | command (cmd : Command)
  | value (op : Byte)
deriving DecidableEq, Repr

/-- A mask operand: a value, or a list of telemetry kinds (R92, R93). -/
inductive AsmMask where
  | value (m : Byte)
  | kinds (l : List TKind)
deriving DecidableEq, Repr

/-- A byte string operand: bytes, or ASCII text (R92). -/
inductive AsmBytes where
  | bytes (l : List Byte)
  | text (t : List Char)
deriving DecidableEq, Repr

/-- The operation of a line with its operands (R92). -/
inductive AsmOp where
  | crc32 (d : AsmBytes)
  | encode (k : Kind) (d : AsmBytes)
  | decode (k : Kind) (d : AsmBytes)
  | classify (op : AsmOpcode) (t : Transport)
  | tick (k : TKind)
  | build (m : AsmMask)
  | parse (m : AsmMask) (d : AsmBytes)
  | openChannel (l : Link)
  | closeChannel
  | exec (t : Transport) (op : AsmOpcode) (d : AsmBytes)
deriving DecidableEq, Repr

/-- One line of a program: an operation, and a caller prefix if it has one (R92). -/
structure AsmLine where
  caller : Option Caller
  op : AsmOp
deriving DecidableEq, Repr

/-- The value of an opcode operand (R92). -/
def AsmOpcode.eval (cfg : Config) : AsmOpcode → Byte
  | .command cmd => cfg.op cmd
  | .value op => op

/-- The value of a mask operand: a list of kinds stands for the sum of their bits (R93). -/
def AsmMask.eval (cfg : Config) : AsmMask → Byte
  | .value m => m
  | .kinds l => l.foldl (fun acc c => acc + (1#8 <<< (cfg.kindBit c).val)) 0#8

/-- The bytes of a byte string operand (R92). -/
def AsmBytes.eval : AsmBytes → List Byte
  | .bytes l => l
  | .text t => t.map fun ch => BitVec.ofNat 8 ch.toNat

/-- The request of an operation (R86, R92). -/
def AsmOp.request (cfg : Config) (c : Caller) : AsmOp → Request
  | .crc32 d => requestOf .crc32 c 0#8 0#8 d.eval
  | .encode k d => requestOf .encode c k.id 0#8 d.eval
  | .decode k d => requestOf .decode c k.id 0#8 d.eval
  | .classify op t => requestOf .classify c (op.eval cfg) t.id []
  | .tick k => requestOf .tick c k.id 0#8 []
  | .build m => requestOf .build c (m.eval cfg) 0#8 []
  | .parse m d => requestOf .parse c (m.eval cfg) 0#8 d.eval
  | .openChannel l => requestOf .openChannel c l.id 0#8 []
  | .closeChannel => requestOf .closeChannel c 0#8 0#8 []
  | .exec t op d => requestOf .exec c (op.eval cfg) t.id d.eval

/-- The request of a line: the caller is 0 where the line names none (R92). -/
def AsmLine.request (cfg : Config) (l : AsmLine) : Request := l.op.request cfg (l.caller.getD 0#4)

end Sys2Proof.Machine
end

