-- ==== Sys2Proof/Machine/Flags.lean ====
section
/-! DEFINITION. The block has no flag register (R22): an operation's outcome is the status code of its response (R89). -/

namespace Sys2Proof.Machine

/-- The status codes of R89. -/
def Status.code : Status → Byte
  | .ok => 0x00#8
  | .sizeMismatch => 0x01#8
  | .checksumError => 0x02#8
  | .shortTransfer => 0x03#8
  | .channelNotOpen => 0x04#8
  | .unsupportedOnTransport => 0x05#8
  | .truncatedComposite => 0x06#8

/-- The two-bit encoding of `S.SEQ_PHASE` (R27). -/
def SeqPhase.code : SeqPhase → BitVec 2
  | .idle => 0#2
  | .write => 1#2
  | .read => 2#2
  | .reserved3 => 3#2

end Sys2Proof.Machine
end

