-- ==== Sys2Proof/Tests/Slice0.lean ====
section
/-! SUPPORT. The model's own tests. Expected values are those of 95_test_vectors.md, named at each test, or written out
from the encodings of 30_encoding.md. The second half gives each statement with hypotheses a state and operands that
meet them. -/

set_option Elab.async false

namespace Sys2Proof.Tests

open Sys2Proof.Machine

/-! ### Helpers -/

/-- The next state of an answer. -/
def nextOf : Answer → Option State
  | .next t => some t
  | .fault _ => none
  | .refused _ => none

/-- The newest response of a next state. -/
def answer (a : Answer) : Option Response := (nextOf a).bind fun t => t.responses.head?.map Prod.snd

/-- The newest transfer of a next state. -/
def transfer (a : Answer) : Option Transfer := (nextOf a).bind fun t => t.wire.head?

/-- The sample source of 95_test_vectors.md section 2. -/
def srcs : Vector (List Byte) 8 :=
  #v[[0xAA#8, 0xBB#8, 0xCC#8], [0x10#8, 0x11#8], [0x20#8, 0x21#8, 0x22#8, 0x23#8, 0x24#8],
    [0x30#8, 0x31#8, 0x32#8, 0x33#8], [0x40#8, 0x41#8], [0x50#8], [0x60#8], []]

/-- The state of V-BUILD-1: counters 5 (SIG) and 1 (TICK). -/
def counted : State :=
  { State.reset with
    cnt := #v[5#32, 0#32, 0#32, 0#32, 0#32, 0#32, 0#32, 1#32]
    inputs := { src := srcs, txCount := 0, rx := [] } }

/-- The composite C of 95_test_vectors.md section 3.7. -/
def compositeC : List Byte :=
  [0x06#8, 0x05#8, 0x00#8, 0x00#8, 0x00#8, 0xAA#8, 0xBB#8, 0xCC#8, 0x37#8, 0x35#8, 0xA6#8, 0x3A#8, 0x00#8, 0x01#8,
    0x00#8, 0x00#8, 0x00#8, 0x2B#8, 0x21#8, 0x7D#8, 0x9B#8]

/-- An open channel on a link. -/
def openOn (l : Link) : State := { State.reset with chOpen := true, chLink := l }

/-- A transaction of caller 0 in flight, with the transport's answer at the inputs. -/
def inFlight (p : SeqPhase) (tr : Transport) (cmd : Command) (d : List Byte) (shadow : Byte) (m : Nat)
    (rx : List Byte) : State :=
  let s := { openOn tr.link with maskShadow := shadow, inputs := { src := srcs, txCount := m, rx := rx } }
  { s.setPending 0#4 (some (requestOf .exec 0#4 (Config.tvcfg.op cmd) tr.id d)) with
    seqPhase := p
    seqCtx := issueCtx s 0#4 cmd (Config.tvcfg.op cmd) tr d }

/-- A request pending and its caller's step next. -/
def taking (s : State) (r : Request) : State :=
  { s.setPending r.caller (some r) with agenda := [.take r.caller] }

/-- A write command's full write phase: its instruction answers OK and puts the given bytes on the transport. -/
def writesBytes (cmd : Command) (tr : Transport) (d bytes : List Byte) : Bool :=
  let s := inFlight .write tr cmd d 0#8 bytes.length []
  match decodeWire Config.tvcfg bytes with
  | .ok i => s.seqCtx.tx == bytes && answer (exec i s) == some ⟨.ok, .none⟩
      && transfer (exec i s) == some (.tx tr bytes bytes.length)
  | .error _ => false

/-- A read command's two phases: the opcode byte out, then its record in, `n` bytes asked for. -/
def readsRecord (cmd : Command) (tr : Transport) (i : Instr) (n : Nat) (rx : List Byte) (k : Kind) : Bool :=
  (nextOf (exec i (inFlight .write tr cmd [] 0#8 1 []))).map State.seqPhase == some .read
    && transfer (exec i (inFlight .write tr cmd [] 0#8 1 [])) == some (.tx tr [Config.tvcfg.op cmd] 1)
    && (inFlight .read tr cmd [] 0#8 1 rx).seqCtx.n == n
    && answer (exec i (inFlight .read tr cmd [] 0#8 1 rx)) == some ⟨.ok, .record (mkRecord k rx)⟩

/-! ### WellFormed: each check refuses an ill-formed term (R8) -/

theorem test_wf_tvcfg : Config.tvcfg.wf = true := by decide +kernel

theorem test_wf1_refuses_size_3 :
    { Config.tvcfg with sizes := Config.tvcfg.sizes.set 14 3 }.wf1 = false
      ∧ { Config.tvcfg with sizes := Config.tvcfg.sizes.set 14 4 }.wf1 = true := by decide +kernel

theorem test_wf2_refuses_telemetry_8 :
    { Config.tvcfg with sizes := Config.tvcfg.sizes.set 7 8 }.wf2 = false
      ∧ { Config.tvcfg with sizes := Config.tvcfg.sizes.set 8 8 }.wf2 = true := by decide +kernel

theorem test_wf3_refuses_shared_bit :
    { Config.tvcfg with kindBits := Config.tvcfg.kindBits.set 0 0 }.wf3 = false := by decide +kernel

theorem test_wf4_refuses_shared_opcode :
    { Config.tvcfg with opcodes := Config.tvcfg.opcodes.set 1 0x01#8 }.wf4 = false := by decide +kernel

theorem test_wf5_refuses_wrong_class :
    { Config.tvcfg with opcodes := Config.tvcfg.opcodes.set 1 0x84#8 }.wf5 = false
      ∧ { Config.tvcfg with opcodes := Config.tvcfg.opcodes.set 12 0xC2#8 }.wf5 = false
      ∧ { Config.tvcfg with opcodes := Config.tvcfg.opcodes.set 24 0x84#8 }.wf5 = false := by decide +kernel

theorem test_wf6_refuses_gap :
    { Config.tvcfg with opcodes := Config.tvcfg.opcodes.set 4 0x05#8 }.wf6 = false
      ∧ { Config.tvcfg with opcodes := (Config.tvcfg.opcodes.set 0 0x03#8).set 4 0x01#8 }.wf6 = true := by
  decide +kernel

theorem test_wf7_refuses_transports :
    { Config.tvcfg with caps := Config.tvcfg.caps.set 9 Config.allThree }.wf7 = false
      ∧ { Config.tvcfg with caps := Config.tvcfg.caps.set 10 Config.allThree }.wf7 = false
      ∧ { Config.tvcfg with caps := Config.tvcfg.caps.set 22 Config.streamOnly }.wf7 = false
      ∧ { Config.tvcfg with caps := Config.tvcfg.caps.set 22 ⟨false, false, false⟩ }.wf7 = true := by decide +kernel

theorem test_wf8_refuses_caller_counts :
    { Config.tvcfg with nCallers := 0 }.wf8 = false ∧ { Config.tvcfg with nCallers := 17 }.wf8 = false
      ∧ { Config.tvcfg with nCallers := 16 }.wf8 = true := by decide +kernel

/-- Caller 2 of a block with two callers (R85), for each of the ten operations. -/
theorem test_wf_refuses_caller :
    (Instr.crc32 2#4 []).wf Config.tvcfg = false ∧ (Instr.encode 2#4 .dab []).wf Config.tvcfg = false
      ∧ (Instr.decode 2#4 .dab []).wf Config.tvcfg = false ∧ (Instr.classify 2#4 0#8 .spi).wf Config.tvcfg = false
      ∧ (Instr.tick 2#4 .sig).wf Config.tvcfg = false ∧ (Instr.build 2#4 0#8).wf Config.tvcfg = false
      ∧ (Instr.parse 2#4 0#8 []).wf Config.tvcfg = false ∧ (Instr.openChannel 2#4 .spi).wf Config.tvcfg = false
      ∧ (Instr.closeChannel 2#4).wf Config.tvcfg = false ∧ (Instr.exec 2#4 0#8 .spi []).wf Config.tvcfg = false := by
  decide +kernel

/-- A legal request is no illegal request, and a reason is the request's own (R90). -/
theorem test_wf_refuses_illegal :
    (Instr.illegalRequest .reservedOpc ⟨0#4, 0x09#8, 0#8, 0#8, []⟩).wf Config.tvcfg = false
      ∧ (Instr.illegalRequest .kindId ⟨0#4, 0x0B#8, 0#8, 0#8, []⟩).wf Config.tvcfg = false
      ∧ (Instr.illegalRequest .reservedOpc ⟨0#4, 0x0B#8, 0#8, 0#8, []⟩).wf Config.tvcfg = true := by decide +kernel

/-- A body one byte short, a body one byte long, and another body's checksum (R81), for a record of each write kind. -/
theorem test_wf_refuses_record :
    (Instr.setDabP [1#8, 2#8, 3#8] 0x793737CD#32).wf Config.tvcfg = false
      ∧ (Instr.setDabV [0#8, 0#8, 0#8, 0#8, 0#8] 0x4710BB9C#32).wf Config.tvcfg = false
      ∧ (Instr.setTunerOptP [0#8, 0#8] 0x00B7647C#32).wf Config.tvcfg = false
      ∧ (Instr.setTunerOptV [0#8] 0x4E08BFB4#32).wf Config.tvcfg = false
      ∧ (Instr.setProcOptP [0#8] 0x4E08BFB4#32).wf Config.tvcfg = false
      ∧ (Instr.setProcOptV [0#8, 0#8] 0x7D64B700#32).wf Config.tvcfg = false
      ∧ (Instr.setTunerReg [0#8, 0#8] 0x00B7647D#32).wf Config.tvcfg = false
      ∧ (Instr.setSerial [0#8, 0#8] 0x00B7647D#32).wf Config.tvcfg = false
      ∧ (Instr.setPwsConfig [1#8, 2#8, 3#8, 4#8] 0xCD373779#32).wf Config.tvcfg = false
      ∧ (Instr.setDfuMode [0#8] 0x4AC9A203#32).wf Config.tvcfg = false
      ∧ (Instr.setDfuBlock [0#8] 0x4E08BFB4#32).wf Config.tvcfg = false
      ∧ (Instr.setDabP [1#8, 2#8, 3#8, 4#8] 0x793737CD#32).wf Config.tvcfg = true := by decide +kernel

/-- A catalogued opcode is not unassigned (R91). -/
theorem test_wf_refuses_assigned :
    (Instr.unassignedProtocolOpcode 0x30#8 []).wf Config.tvcfg = false
      ∧ (Instr.unassignedProtocolOpcode 0x7F#8 []).wf Config.tvcfg = true := by decide +kernel

/-! ### Decoding: words written from R86 (bytes OPC, A, B, caller, D: log 1) and R81 -/

theorem test_decode_crc32 :
    decodeBytes Config.tvcfg .request [0x01#8, 0x00#8, 0x00#8, 0x01#8, 0x41#8] = .ok (.crc32 1#4 [0x41#8]) := by
  decide +kernel

theorem test_decode_encode :
    decodeBytes Config.tvcfg .request [0x02#8, 0x09#8, 0x00#8, 0x00#8, 0x00#8, 0x00#8]
      = .ok (.encode 0#4 .tunerOpt [0x00#8, 0x00#8]) := by decide +kernel

theorem test_decode_decode :
    decodeBytes Config.tvcfg .request [0x03#8, 0x12#8, 0x00#8, 0x00#8, 0x07#8] = .ok (.decode 0#4 .dfuAck [0x07#8])
      ∧ decodeBytes Config.tvcfg .request [0x03#8, 0x13#8, 0x00#8, 0x00#8, 0x07#8]
        = .ok (.illegalRequest .kindId ⟨0#4, 0x03#8, 0x13#8, 0x00#8, [0x07#8]⟩) := by decide +kernel

theorem test_decode_classify :
    decodeBytes Config.tvcfg .request [0x04#8, 0x30#8, 0x02#8, 0x00#8] = .ok (.classify 0#4 0x30#8 .usbStream)
      ∧ decodeBytes Config.tvcfg .request [0x04#8, 0x81#8, 0x03#8, 0x00#8]
        = .ok (.illegalRequest .transportId ⟨0#4, 0x04#8, 0x81#8, 0x03#8, []⟩) := by decide +kernel

theorem test_decode_tick :
    decodeBytes Config.tvcfg .request [0x05#8, 0x07#8, 0x00#8, 0x00#8] = .ok (.tick 0#4 .tick)
      ∧ decodeBytes Config.tvcfg .request [0x05#8, 0x08#8, 0x00#8, 0x00#8]
        = .ok (.illegalRequest .telemetryKindId ⟨0#4, 0x05#8, 0x08#8, 0x00#8, []⟩) := by decide +kernel

theorem test_decode_build :
    decodeBytes Config.tvcfg .request [0x06#8, 0x41#8, 0x00#8, 0x00#8] = .ok (.build 0#4 0x41#8)
      ∧ decodeBytes Config.tvcfg .request [0x06#8, 0x41#8, 0x01#8, 0x00#8]
        = .ok (.illegalRequest .fieldB ⟨0#4, 0x06#8, 0x41#8, 0x01#8, []⟩) := by decide +kernel

theorem test_decode_parse :
    decodeBytes Config.tvcfg .request [0x07#8, 0x14#8, 0x00#8, 0x01#8, 0x02#8] = .ok (.parse 1#4 0x14#8 [0x02#8]) := by
  decide +kernel

theorem test_decode_open :
    decodeBytes Config.tvcfg .request [0x08#8, 0x01#8, 0x00#8, 0x00#8] = .ok (.openChannel 0#4 .usb)
      ∧ decodeBytes Config.tvcfg .request [0x08#8, 0x02#8, 0x00#8, 0x00#8]
        = .ok (.illegalRequest .linkId ⟨0#4, 0x08#8, 0x02#8, 0x00#8, []⟩) := by decide +kernel

theorem test_decode_close :
    decodeBytes Config.tvcfg .request [0x09#8, 0x00#8, 0x00#8, 0x01#8] = .ok (.closeChannel 1#4)
      ∧ decodeBytes Config.tvcfg .request [0x09#8, 0x00#8, 0x00#8, 0x00#8, 0x00#8]
        = .ok (.illegalRequest .bodyNotEmpty ⟨0#4, 0x09#8, 0x00#8, 0x00#8, [0x00#8]⟩) := by decide +kernel

theorem test_decode_exec :
    decodeBytes Config.tvcfg .request [0x0A#8, 0x81#8, 0x01#8, 0x00#8] = .ok (.exec 0#4 0x81#8 .usbCtrl []) := by
  decide +kernel

/-- The requests of 95_test_vectors.md section 3.10 and the request bytes that are none. -/
theorem test_decode_illegal :
    decodeBytes Config.tvcfg .request [0x00#8, 0x00#8, 0x00#8, 0x00#8]
        = .ok (.illegalRequest .reservedOpc ⟨0#4, 0x00#8, 0x00#8, 0x00#8, []⟩)
      ∧ decodeBytes Config.tvcfg .request [0x0B#8, 0x00#8, 0x00#8, 0x00#8]
        = .ok (.illegalRequest .reservedOpc ⟨0#4, 0x0B#8, 0x00#8, 0x00#8, []⟩)
      ∧ decodeBytes Config.tvcfg .request [0xFF#8, 0x00#8, 0x00#8, 0x00#8]
        = .ok (.illegalRequest .reservedOpc ⟨0#4, 0xFF#8, 0x00#8, 0x00#8, []⟩)
      ∧ decodeBytes Config.tvcfg .request [0x01#8, 0x00#8, 0x00#8, 0x02#8]
        = .ok (.illegalRequest .callerId ⟨2#4, 0x01#8, 0x00#8, 0x00#8, []⟩)
      ∧ decodeBytes Config.tvcfg .request [0x04#8, 0x30#8, 0x04#8, 0x00#8]
        = .ok (.illegalRequest .fieldB ⟨0#4, 0x04#8, 0x30#8, 0x04#8, []⟩)
      ∧ decodeBytes Config.tvcfg .request [0x01#8, 0x00#8, 0x00#8, 0x10#8] = .error .callerField
      ∧ decodeBytes Config.tvcfg .request [0x01#8, 0x00#8, 0x00#8] = .error .shortRequest := by decide +kernel

/-- The write-phase bytes of the twelve write commands (95_test_vectors.md section 3.9, the table). -/
theorem test_decode_writes :
    decodeWire Config.tvcfg [0x01#8, 0#8, 0#8, 0#8, 0#8, 0x7B#8, 0xDD#8, 0x04#8, 0xC7#8]
        = .ok (.setDabP [0#8, 0#8, 0#8, 0#8] 0xC704DD7B#32)
      ∧ decodeWire Config.tvcfg [0x11#8, 0#8, 0#8, 0#8, 0#8, 0x7B#8, 0xDD#8, 0x04#8, 0xC7#8]
        = .ok (.setDabV [0#8, 0#8, 0#8, 0#8] 0xC704DD7B#32)
      ∧ decodeWire Config.tvcfg [0x02#8, 0#8, 0#8, 0x7D#8, 0x64#8, 0xB7#8, 0x00#8]
        = .ok (.setTunerOptP [0#8, 0#8] 0x00B7647D#32)
      ∧ decodeWire Config.tvcfg [0x12#8, 0#8, 0#8, 0x7D#8, 0x64#8, 0xB7#8, 0x00#8]
        = .ok (.setTunerOptV [0#8, 0#8] 0x00B7647D#32)
      ∧ decodeWire Config.tvcfg [0x03#8, 0#8, 0#8, 0x7D#8, 0x64#8, 0xB7#8, 0x00#8]
        = .ok (.setProcOptP [0#8, 0#8] 0x00B7647D#32)
      ∧ decodeWire Config.tvcfg [0x13#8, 0#8, 0#8, 0x7D#8, 0x64#8, 0xB7#8, 0x00#8]
        = .ok (.setProcOptV [0#8, 0#8] 0x00B7647D#32)
      ∧ decodeWire Config.tvcfg [0x20#8, 0#8, 0#8, 0#8, 0x00#8, 0x7D#8, 0x64#8, 0xB7#8]
        = .ok (.setTunerReg [0#8, 0#8, 0#8] 0xB7647D00#32)
      ∧ decodeWire Config.tvcfg [0x21#8, 0#8, 0#8, 0#8, 0#8, 0#8, 0#8, 0#8, 0#8, 0x59#8, 0xBB#8, 0x04#8, 0x69#8]
        = .ok (.setSerial (zeros 8) 0x6904BB59#32)
      ∧ decodeWire Config.tvcfg [0x22#8, 0#8, 0#8, 0#8, 0#8, 0x7B#8, 0xDD#8, 0x04#8, 0xC7#8]
        = .ok (.setPwsConfig [0#8, 0#8, 0#8, 0#8] 0xC704DD7B#32)
      ∧ decodeWire Config.tvcfg [0x30#8, 0x00#8] = .ok (.setMask 0x00#8)
      ∧ decodeWire Config.tvcfg [0x40#8, 0#8, 0xB4#8, 0xBF#8, 0x08#8, 0x4E#8] = .ok (.setDfuMode [0#8] 0x4E08BFB4#32)
      ∧ decodeWire Config.tvcfg (0x41#8 :: (zeros 12 ++ [0x21#8, 0x54#8, 0x9C#8, 0x09#8]))
        = .ok (.setDfuBlock (zeros 12) 0x099C5421#32) := by decide +kernel

/-- The opcode bytes of the thirteen reads (95_test_vectors.md section 2). -/
theorem test_decode_reads :
    decodeWire Config.tvcfg [0x81#8] = .ok .getDabP ∧ decodeWire Config.tvcfg [0x91#8] = .ok .getDabV
      ∧ decodeWire Config.tvcfg [0x82#8] = .ok .getTunerOptP ∧ decodeWire Config.tvcfg [0x92#8] = .ok .getTunerOptV
      ∧ decodeWire Config.tvcfg [0x83#8] = .ok .getProcOptP ∧ decodeWire Config.tvcfg [0x93#8] = .ok .getProcOptV
      ∧ decodeWire Config.tvcfg [0xA1#8] = .ok .getSerial ∧ decodeWire Config.tvcfg [0xA2#8] = .ok .getPwsStatus
      ∧ decodeWire Config.tvcfg [0xA3#8] = .ok .getVersion ∧ decodeWire Config.tvcfg [0xB0#8] = .ok .getDfuMode
      ∧ decodeWire Config.tvcfg [0xB1#8] = .ok .getDfuAck ∧ decodeWire Config.tvcfg [0xC0#8] = .ok .getMaskData
      ∧ decodeWire Config.tvcfg [0xC1#8] = .ok .getPing := by decide +kernel

/-- The unassigned opcodes of V-CLS-12, V-CLS-14 and V-CLS-15, and the write-phase bytes that are none (R83). -/
theorem test_decode_unassigned :
    decodeWire Config.tvcfg [0x7F#8, 0x01#8] = .ok (.unassignedProtocolOpcode 0x7F#8 [0x01#8])
      ∧ decodeWire Config.tvcfg [0x80#8] = .ok (.unassignedProtocolOpcode 0x80#8 [])
      ∧ decodeWire Config.tvcfg [0xFF#8] = .ok (.unassignedProtocolOpcode 0xFF#8 [])
      ∧ decodeWire Config.tvcfg [] = .error .emptyStream
      ∧ decodeWire Config.tvcfg [0x30#8] = .error (.requestLength 1 0)
      ∧ decodeWire Config.tvcfg [0xC1#8, 0x00#8] = .error (.requestLength 0 1)
      ∧ decodeWire Config.tvcfg [0x02#8, 0#8, 0#8, 0x7D#8, 0x64#8, 0xB7#8] = .error (.requestLength 6 5) := by
  decide +kernel

/-- A word of the opcode table, decoded and run as the first instruction after reset (log 3, log 21). -/
theorem test_table_word :
    decodeTableWord 8 0x0A = some (.exec 0#4 0#8 .spi []) ∧ decodeTableWord 8 0x30 = some (.setMask 0#8)
      ∧ decodeTableWord 8 0xA3 = some .getVersion ∧ decodeTableWord 8 0x7F = some (.unassignedProtocolOpcode 0x7F#8 [])
      ∧ answer (step (State.reset.withFetchWord 8 0x01)) = some ⟨.ok, .crc 0xFFFFFFFF#32⟩
      ∧ answer (step (State.reset.withFetchWord 8 0x30)) = some ⟨.ok, .none⟩
      ∧ (nextOf (step (State.reset.withFetchWord 8 0xA3))).map State.seqPhase = some .read := by decide +kernel

/-- Lines in the notation of R92 and R93: `CRC32 "123456789"`, `c1: TICK SIG`, `BUILD {SIG, TICK}` and
`EXEC USB_STREAM, SET_MASK, [0x41]`. -/
theorem test_assembly :
    (AsmLine.mk none (.crc32 (.text ['1', '2', '3', '4', '5', '6', '7', '8', '9']))).request Config.tvcfg
        = ⟨0#4, 0x01#8, 0#8, 0#8, [0x31#8, 0x32#8, 0x33#8, 0x34#8, 0x35#8, 0x36#8, 0x37#8, 0x38#8, 0x39#8]⟩
      ∧ (AsmLine.mk (some 1#4) (.tick .sig)).request Config.tvcfg = ⟨1#4, 0x05#8, 0x00#8, 0x00#8, []⟩
      ∧ (AsmLine.mk none (.build (.kinds [.sig, .tick]))).request Config.tvcfg = ⟨0#4, 0x06#8, 0x41#8, 0x00#8, []⟩
      ∧ (AsmLine.mk none (.exec .usbStream (.command .setMask) (.bytes [0x41#8]))).request Config.tvcfg
        = ⟨0#4, 0x0A#8, 0x30#8, 0x02#8, [0x41#8]⟩ := by decide +kernel

/-- The codes of R27 and R89. -/
theorem test_codes :
    (SeqPhase.idle.code, SeqPhase.write.code, SeqPhase.read.code) = (0#2, 1#2, 2#2)
      ∧ Status.truncatedComposite.code = 0x06#8 := by decide

/-! ### The Frame Codec (95_test_vectors.md sections 3.1 to 3.3) -/

/-- V-CRC-1 and V-CRC-14. -/
theorem test_crc32 :
    answer (exec (.crc32 0#4 [0x31#8, 0x32#8, 0x33#8, 0x34#8, 0x35#8, 0x36#8, 0x37#8, 0x38#8, 0x39#8]) State.reset)
        = some ⟨.ok, .crc 0x0376E6E7#32⟩
      ∧ answer (exec (.crc32 0#4 [0x01#8, 0x02#8, 0x03#8, 0x04#8, 0x79#8, 0x37#8, 0x37#8, 0xCD#8]) State.reset)
        = some ⟨.ok, .crc 0x00000000#32⟩ := by decide +kernel

/-- V-ENC-6 and V-ENC-8. -/
theorem test_encode :
    answer (exec (.encode 0#4 .sig [0x07#8, 0x05#8, 0#8, 0#8, 0#8, 0xAA#8, 0xBB#8, 0xCC#8]) State.reset)
        = some ⟨.ok, .bytes [0x07#8, 0x05#8, 0#8, 0#8, 0#8, 0xAA#8, 0xBB#8, 0xCC#8, 0xFD#8, 0xE9#8, 0x07#8, 0x61#8]⟩
      ∧ answer (exec (.encode 0#4 .dab [1#8, 2#8, 3#8, 4#8, 5#8]) State.reset)
        = some ⟨.sizeMismatch, .sizes 4 5⟩ := by decide +kernel

/-- V-DEC-2, V-DEC-7 and V-DEC-14. -/
theorem test_decode :
    answer (exec (.decode 0#4 .dab [0x00#8, 0x02#8, 0x03#8, 0x04#8, 0xCD#8, 0x37#8, 0x37#8, 0x79#8]) State.reset)
        = some ⟨.checksumError, .checksums 0xA55AAD7A#32 0x793737CD#32⟩
      ∧ answer (exec (.decode 0#4 .dab [0x00#8, 0x02#8, 0x03#8, 0x04#8, 0xCD#8, 0x37#8, 0x37#8]) State.reset)
        = some ⟨.sizeMismatch, .sizes 8 7⟩ := by decide +kernel

theorem test_decode_telemetry :
    answer (exec (.decode 0#4 .sig
        [0x06#8, 0x05#8, 0x00#8, 0x01#8, 0x04#8, 0x6B#8, 0xA6#8, 0x7B#8, 0x37#8, 0x35#8, 0xA6#8, 0x3A#8]) State.reset)
      = some ⟨.ok, .record
          { kind := .sig, body := [0x06#8, 0x05#8, 0x00#8, 0x01#8, 0x04#8, 0x6B#8, 0xA6#8, 0x7B#8]
            trailer := 0x3AA63537#32
            telemetry := some ⟨0x06#8, 0x04010005#32, [0x6B#8, 0xA6#8, 0x7B#8]⟩ }⟩ := by decide +kernel

/-! ### The dispatcher, the multiplexer (95_test_vectors.md sections 3.4 to 3.7) -/

/-- V-CLS-10. -/
theorem test_classify :
    answer (exec (.classify 0#4 0xC0#8 .spi) { State.reset with maskShadow := 0x41#8 })
      = some ⟨.ok, .classified ⟨3#2, true, 23#8, 0xFF#8, 0xFD#8, true, 21⟩⟩ := by decide +kernel

/-- V-CLS-6 and V-CLS-13. -/
theorem test_classify_not_permitted :
    answer (exec (.classify 0#4 0xB1#8 .spi) State.reset)
        = some ⟨.ok, .classified ⟨2#2, true, 22#8, 0xFF#8, 0x12#8, false, 8⟩⟩
      ∧ answer (exec (.classify 0#4 0x04#8 .spi) State.reset)
        = some ⟨.ok, .classified ⟨0#2, false, 0xFF#8, 0xFF#8, 0xFF#8, false, 0⟩⟩ := by decide +kernel

/-- V-TICK-2: the counter wraps. -/
theorem test_tick_wraps :
    (nextOf (exec (.tick 0#4 .tick) (State.reset.setCounter .tick 0xFFFFFFFF#32))).map State.cnt
      = some (Vector.replicate 8 0#32) := by decide +kernel

/-- V-TICK-3: taken without holding while a transaction is in flight. -/
theorem test_tick_in_flight :
    (nextOf (exec (.tick 1#4 .fib) ((inFlight .read .spi .getDabP [] 0#8 1 []).setCounter .fib 7#32))).map
        (fun t => (t.counter .fib, t.seqPhase)) = some (8#32, .read) := by decide +kernel

/-- V-BUILD-1. -/
theorem test_build : answer (exec (.build 0#4 0x41#8) counted) = some ⟨.ok, .bytes compositeC⟩ := by decide +kernel

/-- BUILD needs no set-up (R275): from reset every kind's record is made, of its size. -/
theorem test_build_from_reset :
    (match answer (exec (.build 0#4 0xFF#8) State.reset) with
      | some ⟨.ok, .bytes out⟩ => out.length
      | _ => 0) = 90 := by decide +kernel

/-- V-BUILD-9 (the order follows the kind, not the bit) and V-BUILD-8 (a payload of the wrong length). -/
theorem test_build_order_and_contract :
    answer (exec (.build 0#4 0x24#8) { counted with cnt := State.reset.cnt })
        = some ⟨.ok, .bytes [0x02#8, 0#8, 0#8, 0#8, 0#8, 0x10#8, 0x11#8, 0xB0#8, 0x44#8, 0x2B#8, 0x47#8, 0x05#8, 0#8,
            0#8, 0#8, 0#8, 0x20#8, 0x21#8, 0x22#8, 0x23#8, 0x24#8, 0x63#8, 0x09#8, 0x93#8, 0xCE#8]⟩
      ∧ (nextOf (exec (.build 0#4 0x41#8) (counted.present .sig [0xAA#8, 0xBB#8]))).map
          (fun t => (t.refusedRun, t.responses)) = some (true, []) := by decide +kernel

/-- V-PARSE-2. -/
theorem test_parse_checksum :
    answer (exec (.parse 0#4 0x41#8 (compositeC.set 5 0xAB#8)) State.reset)
      = some ⟨.checksumError, .slots [⟨.sig, .checksumError, none⟩,
          ⟨.tick, .ok, some ⟨.tick, [0#8, 1#8, 0#8, 0#8, 0#8], 0x9B7D212B#32, some ⟨0#8, 1#32, []⟩⟩⟩]⟩ := by
  decide +kernel

/-- V-PARSE-7 and V-PARSE-9. -/
theorem test_parse_lengths :
    answer (exec (.parse 0#4 0x41#8 ((compositeC.set 5 0xAB#8).take 20)) State.reset)
        = some ⟨.truncatedComposite,
            .truncated [⟨.sig, .checksumError, none⟩, ⟨.tick, .truncatedComposite, none⟩] .tick 8 9⟩
      ∧ answer (exec (.parse 0#4 0x00#8 [0#8]) State.reset) = some ⟨.sizeMismatch, .excess [] 0 1⟩ := by decide +kernel

/-! ### OPEN, CLOSE, EXEC (95_test_vectors.md sections 3.8 and 3.9) -/

/-- V-OC-2 and V-OC-5. -/
theorem test_open :
    (nextOf (exec (.openChannel 0#4 .usb) { openOn .spi with desync := true, maskShadow := 0x41#8 })).map
        (fun t => (t.chOpen, t.chLink, t.desync, t.maskShadow)) = some (true, .usb, false, 0x41#8)
      ∧ (nextOf (exec (.openChannel 1#4 .usb) (inFlight .read .spi .getDabP [] 0#8 1 []))).map
        (fun t => (t.chLink, t.responses)) = some (.spi, []) := by decide +kernel

/-- V-OC-4 and V-OC-3. -/
theorem test_close :
    (nextOf (exec (.closeChannel 0#4) { openOn .usb with desync := true })).map
        (fun t => (t.chOpen, t.desync, t.chLink)) = some (false, false, .usb)
      ∧ answer (exec (.closeChannel 0#4) State.reset) = some ⟨.ok, .none⟩ := by decide +kernel

/-- V-EX-2, V-EX-4, V-EX-5 and V-EX-11: the order of the checks. -/
theorem test_exec_checks :
    answer (exec (.exec 0#4 0x30#8 .spi [1#8, 2#8]) State.reset) = some ⟨.channelNotOpen, .none⟩
      ∧ answer (exec (.exec 0#4 0x30#8 .spi [1#8, 2#8]) (openOn .spi))
        = some ⟨.unsupportedOnTransport, .unsupported 0x30#8 .spi⟩
      ∧ answer (exec (.exec 0#4 0xC1#8 .usbCtrl []) (openOn .spi))
        = some ⟨.unsupportedOnTransport, .unsupported 0xC1#8 .usbCtrl⟩
      ∧ answer (exec (.exec 0#4 0x30#8 .usbStream [0x41#8, 0x42#8]) (openOn .usb)) = some ⟨.sizeMismatch, .sizes 1 2⟩ := by
  decide +kernel

/-- The issue steps of V-EX-12 and of step 2 of P5. -/
theorem test_exec_issue :
    (nextOf (exec (.exec 0#4 0x01#8 .spi [1#8, 2#8, 3#8, 4#8]) (openOn .spi))).map (fun t => (t.seqPhase, t.seqCtx.tx))
        = some (.write, [0x01#8, 0x01#8, 0x02#8, 0x03#8, 0x04#8, 0xCD#8, 0x37#8, 0x37#8, 0x79#8])
      ∧ (nextOf (exec (.exec 0#4 0x81#8 .spi []) (openOn .spi))).map State.seqCtx
        = some ⟨0#4, .spi, 0x81#8, .rread, [0x81#8], 8, 0x00#8⟩ := by decide +kernel

/-- 95_test_vectors.md section 3.10: no response, and the run is flagged. -/
theorem test_illegal :
    (nextOf (exec (.illegalRequest .reservedOpc ⟨0#4, 0xFF#8, 0#8, 0#8, []⟩) State.reset)).map
      (fun t => (t.refusedRun, t.responses, { t with refusedRun := false } == State.reset)) = some (true, [], true) := by
  decide +kernel

/-! ### The commands (95_test_vectors.md section 3.9) -/

/-- The table's write-phase bytes, each transmitted in full. -/
theorem test_set_records :
    writesBytes .setDabP .spi (zeros 4) [0x01#8, 0#8, 0#8, 0#8, 0#8, 0x7B#8, 0xDD#8, 0x04#8, 0xC7#8] = true
      ∧ writesBytes .setDabV .spi (zeros 4) [0x11#8, 0#8, 0#8, 0#8, 0#8, 0x7B#8, 0xDD#8, 0x04#8, 0xC7#8] = true
      ∧ writesBytes .setTunerOptP .spi (zeros 2) [0x02#8, 0#8, 0#8, 0x7D#8, 0x64#8, 0xB7#8, 0x00#8] = true
      ∧ writesBytes .setTunerOptV .spi (zeros 2) [0x12#8, 0#8, 0#8, 0x7D#8, 0x64#8, 0xB7#8, 0x00#8] = true
      ∧ writesBytes .setProcOptP .spi (zeros 2) [0x03#8, 0#8, 0#8, 0x7D#8, 0x64#8, 0xB7#8, 0x00#8] = true
      ∧ writesBytes .setProcOptV .spi (zeros 2) [0x13#8, 0#8, 0#8, 0x7D#8, 0x64#8, 0xB7#8, 0x00#8] = true
      ∧ writesBytes .setTunerReg .spi (zeros 3) [0x20#8, 0#8, 0#8, 0#8, 0x00#8, 0x7D#8, 0x64#8, 0xB7#8] = true
      ∧ writesBytes .setSerial .usbCtrl [0x50#8, 0x52#8, 0x46#8, 0x30#8, 0x30#8, 0x30#8, 0x34#8, 0x32#8]
          [0x21#8, 0x50#8, 0x52#8, 0x46#8, 0x30#8, 0x30#8, 0x30#8, 0x34#8, 0x32#8, 0x76#8, 0xBC#8, 0xAE#8, 0x0F#8] = true
      ∧ writesBytes .setPwsConfig .usbStream (zeros 4) [0x22#8, 0#8, 0#8, 0#8, 0#8, 0x7B#8, 0xDD#8, 0x04#8, 0xC7#8] = true
      ∧ writesBytes .setDfuMode .usbCtrl [0x01#8] [0x40#8, 0x01#8, 0x03#8, 0xA2#8, 0xC9#8, 0x4A#8] = true
      ∧ writesBytes .setDfuBlock .usbCtrl (zeros 12) (0x41#8 :: (zeros 12 ++ [0x21#8, 0x54#8, 0x9C#8, 0x09#8])) = true := by
  decide +kernel

/-- V-EX-21 and V-EX-22: the shadow follows a complete SET_MASK only. -/
theorem test_set_mask :
    (nextOf (exec (.setMask 0x41#8) (inFlight .write .usbStream .setMask [0x41#8] 0#8 2 []))).map
        (fun t => (t.maskShadow, t.desync)) = some (0x41#8, false)
      ∧ (nextOf (exec (.setMask 0x41#8) (inFlight .write .usbStream .setMask [0x41#8] 0#8 1 []))).map
        (fun t => (t.maskShadow, t.desync)) = some (0x00#8, true) := by decide +kernel

/-- V-EX-13: a short write phase. -/
theorem test_short_write :
    answer (exec (.setDabP [1#8, 2#8, 3#8, 4#8] 0x793737CD#32)
        (inFlight .write .spi .setDabP [1#8, 2#8, 3#8, 4#8] 0#8 4 [])) = some ⟨.shortTransfer, .short .write 4 9⟩ := by
  decide +kernel

/-- V-EX-14, V-EX-27, V-EX-29 and the read-phase lengths of section 3.9, with records of section 1's table. -/
theorem test_get_records :
    readsRecord .getDabP .spi .getDabP 8 [1#8, 2#8, 3#8, 4#8, 0xCD#8, 0x37#8, 0x37#8, 0x79#8] .dab = true
      ∧ readsRecord .getDabV .usbCtrl .getDabV 8 [0#8, 0#8, 0#8, 0#8, 0x7B#8, 0xDD#8, 0x04#8, 0xC7#8] .dab = true
      ∧ readsRecord .getTunerOptP .spi .getTunerOptP 6 [0#8, 0#8, 0x7D#8, 0x64#8, 0xB7#8, 0x00#8] .tunerOpt = true
      ∧ readsRecord .getTunerOptV .spi .getTunerOptV 6 [0#8, 0#8, 0x7D#8, 0x64#8, 0xB7#8, 0x00#8] .tunerOpt = true
      ∧ readsRecord .getProcOptP .spi .getProcOptP 6 [0#8, 0#8, 0x7D#8, 0x64#8, 0xB7#8, 0x00#8] .procOpt = true
      ∧ readsRecord .getProcOptV .spi .getProcOptV 6 [0#8, 0#8, 0x7D#8, 0x64#8, 0xB7#8, 0x00#8] .procOpt = true
      ∧ readsRecord .getSerial .usbStream .getSerial 12 (zeros 8 ++ [0x59#8, 0xBB#8, 0x04#8, 0x69#8]) .serial = true
      ∧ readsRecord .getPwsStatus .spi .getPwsStatus 5 [0#8, 0xB4#8, 0xBF#8, 0x08#8, 0x4E#8] .pwsStatus = true
      ∧ readsRecord .getVersion .spi .getVersion 8 [1#8, 2#8, 0#8, 7#8, 0xC7#8, 0x4E#8, 0x9F#8, 0x06#8] .version = true
      ∧ readsRecord .getDfuMode .usbCtrl .getDfuMode 5 [0#8, 0xB4#8, 0xBF#8, 0x08#8, 0x4E#8] .dfuMode = true
      ∧ readsRecord .getDfuAck .usbCtrl .getDfuAck 8 [0#8, 0#8, 0#8, 0#8, 0x7B#8, 0xDD#8, 0x04#8, 0xC7#8] .dfuAck = true := by
  decide +kernel

/-- V-EX-15 and V-EX-16, with the zero fill of SPI. -/
theorem test_read_errors :
    answer (exec .getDabP (inFlight .read .spi .getDabP [] 0#8 1
        [0#8, 2#8, 3#8, 4#8, 0xCD#8, 0x37#8, 0x37#8, 0x79#8]))
        = some ⟨.checksumError, .checksums 0xA55AAD7A#32 0x793737CD#32⟩
      ∧ answer (exec .getDabP (inFlight .read .spi .getDabP [] 0#8 1 [1#8, 2#8, 3#8, 4#8, 0xCD#8]))
        = some ⟨.shortTransfer, .short .read 5 8⟩
      ∧ transfer (exec .getDabP (inFlight .read .spi .getDabP [] 0#8 1 [1#8, 2#8, 3#8, 4#8, 0xCD#8]))
        = some (.rx .spi 8 (zeros 8) [1#8, 2#8, 3#8, 4#8, 0xCD#8]) := by decide +kernel

/-- V-EX-20 and V-EX-25. -/
theorem test_get_mask_data :
    (nextOf (exec .getMaskData (inFlight .write .usbStream .getMaskData [] 0#8 1 []))).map
        (fun t => (t.responses, t.wire, t.seqPhase))
        = some ([(0#4, ⟨.ok, .slots []⟩)], [.tx .usbStream [0xC0#8] 1], .idle)
      ∧ answer (exec .getMaskData (inFlight .read .usbStream .getMaskData [] 0x41#8 1 (compositeC.set 5 0xAB#8)))
        = some ⟨.checksumError, .slots [⟨.sig, .checksumError, none⟩,
            ⟨.tick, .ok, some ⟨.tick, [0#8, 1#8, 0#8, 0#8, 0#8], 0x9B7D212B#32, some ⟨0#8, 1#32, []⟩⟩⟩]⟩ := by
  decide +kernel

/-- V-EX-18 and V-EX-19. -/
theorem test_get_ping :
    answer (exec .getPing (inFlight .read .spi .getPing [] 0#8 1 [0x5A#8])) = some ⟨.ok, .value 0x5A#8⟩
      ∧ transfer (exec .getPing (inFlight .read .spi .getPing [] 0#8 1 [0x5A#8]))
        = some (.rx .spi 1 [0x00#8] [0x5A#8])
      ∧ answer (exec .getPing (inFlight .read .usbCtrl .getPing [] 0#8 1 [])) = some ⟨.shortTransfer, .short .read 0 1⟩ := by
  decide +kernel

/-- V-EX-7, at the issue step; and the unassigned opcode itself (log 16). -/
theorem test_unassigned :
    answer (exec (.exec 0#4 0x7F#8 .spi []) (openOn .spi)) = some ⟨.unsupportedOnTransport, .unsupported 0x7F#8 .spi⟩
      ∧ (nextOf (exec (.unassignedProtocolOpcode 0x7F#8 []) ((openOn .spi).withTransaction [0x7F#8]))).map
        (fun t => (t.responses, t.wire)) = some ([(0#4, ⟨.unsupportedOnTransport, .unsupported 0x7F#8 .spi⟩)], []) := by
  decide +kernel

/-- A next state that meets a decidable claim. -/
theorem next_of {a : Answer} (p : State → Prop) [DecidablePred p]
    (h : ((nextOf a).any fun t => decide (p t)) = true) : ∃ t, a = .next t ∧ p t := by
  match a, h with
  | .next t, h => exact ⟨t, rfl, of_decide_eq_true h⟩

/-- V-RST-1. -/
theorem test_reset_event :
    ∃ t, step { openOn .usb with
        cnt := counted.cnt, maskShadow := 0x41#8, desync := true, agenda := [.reset] } = .next t
      ∧ (t.cnt = State.reset.cnt ∧ t.chOpen = false ∧ t.desync = false ∧ t.seqPhase = .idle ∧ t.maskShadow = 0x00#8
        ∧ t.pending = State.reset.pending) := next_of _ (by decide +kernel)

/-! ### Witnesses: states and operands that meet the hypotheses of the statements

One theorem per statement with hypotheses, named after it; where a statement has several clauses, each clause's
hypotheses are met, at the boundary values of its range. -/

/-- The configuration of TVCFG with the other final XOR of R102. -/
def xored : Config := { Config.tvcfg with crcXorOut := 0xFFFFFFFF#32 }

theorem witness_CrcReferenceVector :
    Config.tvcfg.crcXorOut = 0x00000000#32 ∧ xored.crcXorOut = 0xFFFFFFFF#32 := by decide

theorem witness_CrcAlgebraicProperties :
    Config.tvcfg.crcXorOut = 0#32 ∧ 0 < [0x31#8].length ∧ 0 < 8 ∧ 7 < 8 := by decide

theorem witness_EncodeBuildsRecordOrSizeMismatch :
    State.reset.cfg.wf = true ∧ [1#8, 2#8, 3#8, 4#8].length = State.reset.cfg.size .dab - 4
      ∧ [1#8, 2#8, 3#8].length ≠ State.reset.cfg.size .dab - 4
      ∧ [1#8, 2#8, 3#8, 4#8, 5#8].length ≠ State.reset.cfg.size .dab - 4 := by decide +kernel

/-- The records of V-DEC-1 and V-DEC-2. -/
def goodDab : List Byte := [0x01#8, 0x02#8, 0x03#8, 0x04#8, 0xCD#8, 0x37#8, 0x37#8, 0x79#8]

/-- See `goodDab`. -/
def badDab : List Byte := [0x00#8, 0x02#8, 0x03#8, 0x04#8, 0xCD#8, 0x37#8, 0x37#8, 0x79#8]

theorem witness_DecodeChecksLengthThenChecksum :
    (goodDab.take 7).length ≠ State.reset.cfg.size .dab ∧ (goodDab ++ [0#8]).length ≠ State.reset.cfg.size .dab
      ∧ badDab.length = State.reset.cfg.size .dab
      ∧ crc32 State.reset.cfg (memRead badDab 0 (badDab.length - 4)) ≠ le32 badDab (badDab.length - 4)
      ∧ goodDab.length = State.reset.cfg.size .dab
      ∧ crc32 State.reset.cfg (memRead goodDab 0 (goodDab.length - 4)) = le32 goodDab (goodDab.length - 4)
      ∧ Kind.dab.isTelemetry = false ∧ (compositeC.take 12).length = State.reset.cfg.size .sig
      ∧ crc32 State.reset.cfg (memRead (compositeC.take 12) 0 ((compositeC.take 12).length - 4))
        = le32 (compositeC.take 12) ((compositeC.take 12).length - 4)
      ∧ Kind.sig.isTelemetry = true ∧ Kind.tick.isTelemetry = true := by decide +kernel

theorem witness_DecodeOfEncodedRecordGivesBody :
    State.reset.cfg.wf = true ∧ [1#8, 2#8, 3#8, 4#8].length = State.reset.cfg.size .dab - 4 := by decide +kernel

theorem witness_OneFlippedBitFailsDecode :
    State.reset.cfg.wf = true ∧ 0 < goodDab.length ∧ 7 < goodDab.length ∧ 0 < 8 ∧ 7 < 8
      ∧ ∃ t, exec (.encode 0#4 .dab [1#8, 2#8, 3#8, 4#8]) State.reset = .next t
        ∧ t.responses = (0#4, ⟨.ok, .bytes goodDab⟩) :: State.reset.responses :=
  ⟨by decide +kernel, by decide, by decide, by decide, by decide, next_of _ (by decide +kernel)⟩

theorem witness_OpcodeClassByRange :
    (0x00#8).toNat < 0x80 ∧ (0x7F#8).toNat < 0x80 ∧ 0x80 ≤ (0x80#8).toNat ∧ (0x80#8).toNat < 0xC0
      ∧ 0x80 ≤ (0xBF#8).toNat ∧ (0xBF#8).toNat < 0xC0 ∧ 0xC0 ≤ (0xC0#8).toNat ∧ 0xC0 ≤ (0xFF#8).toNat := by decide

theorem witness_PersistentOpcodesAreConsecutive : Config.tvcfg.wf = true := by decide +kernel

theorem witness_RestrictedCommandsKeepTheirTransport :
    Config.tvcfg.wf = true ∧ entry Config.tvcfg 0x7F#8 = none
      ∧ permitted Config.tvcfg (Config.tvcfg.op .setMask) .usbStream = true
      ∧ permitted Config.tvcfg (Config.tvcfg.op .setDfuMode) .usbCtrl = true := by decide +kernel

theorem witness_OpcodeConventionHolds :
    Config.tvcfg.wf = true ∧ Command.getPing.cls = .svread ∧ Command.getPing ≠ .getMaskData
      ∧ Command.setDabP.cls = .write ∧ Config.tvcfg.op .setDabP &&& 0x80#8 = 0#8 := by decide +kernel

theorem witness_ResponseLengthOfEachCommand :
    Config.tvcfg.wf = true ∧ Command.setDabP.cls = .write ∧ Command.getDabP.resp = .record .dab := by decide +kernel

theorem witness_ClassifyReportsTheCatalog :
    entry State.reset.cfg 0x81#8 = some .getDabP ∧ entry State.reset.cfg 0xC1#8 = some .getPing
      ∧ entry State.reset.cfg 0x00#8 = none ∧ entry State.reset.cfg 0x80#8 = none
      ∧ entry State.reset.cfg 0xFF#8 = none := by decide +kernel

/-- A TICK request of caller 1, its step next. -/
def ticking : State := taking State.reset (requestOf .tick 1#4 TKind.tick.id 0#8 [])

theorem witness_OnlyTickAndResetChangeCounters :
    (∃ t, step ticking = .next t ∧ t.cnt ≠ ticking.cnt)
      ∧ ∃ t, step { counted with agenda := [.reset] } = .next t ∧ t.cnt ≠ counted.cnt :=
  ⟨next_of _ (by decide +kernel), next_of _ (by decide +kernel)⟩

theorem witness_BuildConcatenatesEnabledRecords (m : Byte) (k : TKind) :
    enabled counted.cfg m k = true → counted.inputs.src[k.idx].length + 9 = counted.cfg.size k.toKind := by
  intro _; cases k <;> decide +kernel

theorem witness_BuildRefusesWrongPayloadLength :
    enabled counted.cfg 0x41#8 .sig = true
      ∧ (counted.present .sig [0xAA#8, 0xBB#8]).inputs.src[TKind.sig.idx].length + 9 ≠ counted.cfg.size TKind.sig.toKind
      ∧ (counted.present .sig (zeros 4)).inputs.src[TKind.sig.idx].length + 9 ≠ counted.cfg.size TKind.sig.toKind := by
  decide +kernel

theorem witness_CompositeLengthIsSumOfSizes :
    counted.cfg.wf = true ∧ ∃ t, exec (.build 0#4 0x41#8) counted = .next t
      ∧ t.responses = (0#4, ⟨.ok, .bytes compositeC⟩) :: counted.responses :=
  ⟨by decide +kernel, next_of _ (by decide +kernel)⟩

theorem witness_ParseOfBuiltCompositeGivesItsRecords :
    (counted.cfg.wf = true ∧ ∃ t, exec (.build 0#4 0x41#8) counted = .next t
      ∧ t.responses = (0#4, ⟨.ok, .bytes compositeC⟩) :: counted.responses)
    ∧ ∃ t, exec (.build 0#4 0x00#8) counted = .next t
      ∧ t.responses = (0#4, ⟨.ok, .bytes []⟩) :: counted.responses :=
  ⟨⟨by decide +kernel, next_of _ (by decide +kernel)⟩, next_of _ (by decide +kernel)⟩

theorem witness_ParseStatusFollowsLength :
    (compositeC.take 20).length < compositeLen State.reset.cfg 0x41#8
      ∧ ([] : List Byte).length < compositeLen State.reset.cfg 0x41#8
      ∧ compositeLen State.reset.cfg 0x41#8 < (compositeC ++ [0#8]).length
      ∧ compositeC.length = compositeLen State.reset.cfg 0x41#8 := by decide +kernel

/-- The slot clauses: V-PARSE-1, V-PARSE-2 and V-PARSE-7, the last record ending at the last byte and one byte after. -/
theorem witness_ParseStatusFollowsLength_slots :
    offsetOf Config.tvcfg 0x41#8 .tick + Config.tvcfg.size TKind.tick.toKind = compositeC.length
      ∧ trailerMatches Config.tvcfg (recordSlice Config.tvcfg 0x41#8 .tick compositeC)
      ∧ offsetOf Config.tvcfg 0x41#8 .sig + Config.tvcfg.size TKind.sig.toKind ≤ (compositeC.set 5 0xAB#8).length
      ∧ ¬ trailerMatches Config.tvcfg (recordSlice Config.tvcfg 0x41#8 .sig (compositeC.set 5 0xAB#8))
      ∧ (compositeC.take 20).length < offsetOf Config.tvcfg 0x41#8 .tick + Config.tvcfg.size TKind.tick.toKind := by
  decide +kernel

theorem witness_ChecksumErrorIsolatedToItsRecord :
    enabled Config.tvcfg 0x41#8 .sig = true
      ∧ compositeC.length = compositeLen Config.tvcfg 0x41#8
      ∧ (compositeC.set 5 0xAB#8).length = compositeLen Config.tvcfg 0x41#8
      ∧ (∀ i, i < offsetOf Config.tvcfg 0x41#8 .sig
          ∨ offsetOf Config.tvcfg 0x41#8 .sig + Config.tvcfg.size TKind.sig.toKind ≤ i →
        compositeC[i]? = (compositeC.set 5 0xAB#8)[i]?)
      ∧ (parseComposite Config.tvcfg 0x41#8 0#32 compositeC).1 = ⟨.ok, .slots
          [⟨.sig, .ok, some ⟨.sig, [0x06#8, 5#8, 0#8, 0#8, 0#8, 0xAA#8, 0xBB#8, 0xCC#8], 0x3AA63537#32,
              some ⟨0x06#8, 5#32, [0xAA#8, 0xBB#8, 0xCC#8]⟩⟩⟩,
            ⟨.tick, .ok, some ⟨.tick, [0#8, 1#8, 0#8, 0#8, 0#8], 0x9B7D212B#32, some ⟨0#8, 1#32, []⟩⟩⟩]⟩
      ∧ (parseComposite Config.tvcfg 0x41#8 0#32 (compositeC.set 5 0xAB#8)).1 = ⟨.checksumError, .slots
          [⟨.sig, .checksumError, none⟩,
            ⟨.tick, .ok, some ⟨.tick, [0#8, 1#8, 0#8, 0#8, 0#8], 0x9B7D212B#32, some ⟨0#8, 1#32, []⟩⟩⟩]⟩ := by
  refine ⟨by decide +kernel, by decide +kernel, by decide +kernel, ?_, by decide +kernel, by decide +kernel⟩
  have h0 : offsetOf Config.tvcfg 0x41#8 .sig = 0 := by decide +kernel
  have h1 : Config.tvcfg.size TKind.sig.toKind = 12 := by decide +kernel
  intro i hi
  rw [h0, h1] at hi
  rw [List.getElem?_set_ne (by omega)]

theorem witness_OpenEstablishesTheChannel :
    State.reset.seqPhase = .idle ∧ { openOn .spi with desync := true }.seqPhase = .idle := by decide

theorem witness_CloseClosesTheChannel : State.reset.seqPhase = .idle ∧ (openOn .usb).seqPhase = .idle := by decide

theorem witness_ChannelOperationsHoldInFlight :
    (inFlight .write .spi .getDabP [] 0#8 1 []).seqPhase = .write
      ∧ (inFlight .read .spi .getDabP [] 0#8 1 []).seqPhase = .read := by decide +kernel

theorem witness_ExecChecksInOrder :
    State.reset.cfg.wf = true ∧ State.reset.seqPhase = .idle ∧ State.reset.chOpen = false
      ∧ (openOn .spi).seqPhase = .idle ∧ (openOn .spi).chOpen = true
      ∧ Transport.usbCtrl.link ≠ (openOn .spi).chLink
      ∧ permitted (openOn .spi).cfg 0x30#8 .spi = false ∧ Transport.spi.link = (openOn .spi).chLink
      ∧ permitted (openOn .spi).cfg 0x81#8 .spi = true ∧ entry (openOn .spi).cfg 0x81#8 = some .getDabP
      ∧ opClass 0x81#8 ≠ .write ∧ [0#8].length ≠ 0
      ∧ permitted (openOn .usb).cfg 0x30#8 .usbStream = true ∧ Transport.usbStream.link = (openOn .usb).chLink
      ∧ entry (openOn .usb).cfg 0x30#8 = some .setMask ∧ Command.setMask.req = .rawMask ∧ opClass 0x30#8 = .write
      ∧ ([] : List Byte).length ≠ 1 ∧ [0x41#8, 0x42#8].length ≠ 1
      ∧ permitted (openOn .spi).cfg 0x01#8 .spi = true ∧ entry (openOn .spi).cfg 0x01#8 = some .setDabP
      ∧ opClass 0x01#8 = .write ∧ Command.setDabP.req = .record .dab ∧ (openOn .spi).cfg.size .dab - 4 = 4
      ∧ [1#8, 2#8, 3#8].length ≠ 4 ∧ [1#8, 2#8, 3#8, 4#8, 5#8].length ≠ 4 := by decide +kernel

theorem witness_ExecEntersTheWritePhase :
    (openOn .spi).seqPhase = .idle ∧ (openOn .spi).chOpen = true ∧ Transport.spi.link = (openOn .spi).chLink
      ∧ entry (openOn .spi).cfg 0x81#8 = some .getDabP ∧ permitted (openOn .spi).cfg 0x81#8 .spi = true
      ∧ ([] : List Byte).length = bodyLen (openOn .spi).cfg .getDabP ∧ Command.getDabP.req = .none
      ∧ entry (openOn .spi).cfg 0x01#8 = some .setDabP ∧ permitted (openOn .spi).cfg 0x01#8 .spi = true
      ∧ [1#8, 2#8, 3#8, 4#8].length = bodyLen (openOn .spi).cfg .setDabP ∧ Command.setDabP.req = .record .dab
      ∧ (openOn .usb).seqPhase = .idle ∧ (openOn .usb).chOpen = true
      ∧ Transport.usbStream.link = (openOn .usb).chLink
      ∧ entry (openOn .usb).cfg 0x30#8 = some .setMask ∧ permitted (openOn .usb).cfg 0x30#8 .usbStream = true
      ∧ [0x41#8].length = bodyLen (openOn .usb).cfg .setMask ∧ Command.setMask.req = .rawMask := by decide +kernel

/-- SET_DAB_P of V-EX-12 in its write phase, `m` bytes transmitted. -/
def writing (m : Nat) : State := inFlight .write .spi .setDabP [1#8, 2#8, 3#8, 4#8] 0#8 m []

/-- GET_DAB_P of V-EX-14 in its read phase. -/
def reading (tr : Transport) (rx : List Byte) : State := inFlight .read tr .getDabP [] 0#8 1 rx

/-- The instruction of `writing`. -/
def dabWrite : Instr := .setDabP [1#8, 2#8, 3#8, 4#8] 0x793737CD#32

theorem witness_RecordWritesCompleteWithOk :
    dabWrite.command = some .setDabP ∧ Command.setDabP.req = .record .dab ∧ (writing 9).seqPhase = .write
      ∧ (writing 9).inputs.txCount = (encodeInstr (writing 9).cfg dabWrite).length := by decide +kernel

theorem witness_SetMaskLoadsTheShadow :
    (inFlight .write .usbStream .setMask [0x41#8] 0#8 2 []).seqPhase = .write
      ∧ (inFlight .write .usbStream .setMask [0x41#8] 0#8 2 []).inputs.txCount = 2 := by decide +kernel

theorem witness_ReadsEnterTheReadPhase :
    Instr.getDabP.command = some .getDabP ∧ Command.getDabP.cls ≠ .write
      ∧ (inFlight .write .spi .getDabP [] 0#8 1 []).seqPhase = .write
      ∧ (inFlight .write .spi .getDabP [] 0#8 1 []).inputs.txCount = 1
      ∧ (inFlight .write .spi .getDabP [] 0#8 1 []).seqCtx.n ≠ 0 := by decide +kernel

theorem witness_RecordReadsAnswerWithTheRecord :
    Instr.getDabP.command = some .getDabP ∧ Command.getDabP.resp = .record .dab
      ∧ (reading .spi goodDab).seqPhase = .read ∧ (reading .spi goodDab).seqCtx.n = (reading .spi goodDab).cfg.size .dab
      ∧ (reading .spi goodDab).inputs.rx.length = (reading .spi goodDab).cfg.size .dab
      ∧ crc32 Config.tvcfg (memRead goodDab 0 4) = le32 goodDab 4
      ∧ (reading .spi badDab).inputs.rx.length = (reading .spi badDab).cfg.size .dab
      ∧ crc32 Config.tvcfg (memRead badDab 0 4) ≠ le32 badDab 4 := by decide +kernel

/-- GET_MASK_DATA in its read phase with the composite of V-PARSE-1. -/
def maskRead : State := inFlight .read .usbStream .getMaskData [] 0x41#8 1 compositeC

theorem witness_MaskDataAnswersWithItsSlots :
    maskRead.seqPhase = .read ∧ maskRead.seqCtx.n = compositeLen maskRead.cfg maskRead.seqCtx.mask
      ∧ maskRead.inputs.rx.length = maskRead.seqCtx.n := by decide +kernel

/-- GET_MASK_DATA in its write phase with an empty mask (V-EX-25). -/
def emptyMask : State := inFlight .write .usbStream .getMaskData [] 0#8 1 []

theorem witness_EmptyMaskDataNeedsNoReadPhase :
    emptyMask.seqPhase = .write ∧ emptyMask.seqCtx.n = 0 ∧ emptyMask.seqCtx.mask = 0#8
      ∧ emptyMask.inputs.txCount = 1 := by decide +kernel

theorem witness_PingAnswersWithItsByte :
    (inFlight .read .spi .getPing [] 0#8 1 [0x00#8]).seqPhase = .read
      ∧ (inFlight .read .spi .getPing [] 0#8 1 [0x00#8]).seqCtx.n = 1
      ∧ (inFlight .read .spi .getPing [] 0#8 1 [0x00#8]).inputs.rx = [0x00#8] := by decide +kernel

theorem witness_ShortWritePhaseDesynchronises :
    dabWrite.command = some .setDabP ∧ (writing 0).seqPhase = .write
      ∧ (writing 0).inputs.txCount < (encodeInstr (writing 0).cfg dabWrite).length
      ∧ (writing 8).inputs.txCount < (encodeInstr (writing 8).cfg dabWrite).length := by decide +kernel

theorem witness_ShortReadPhaseDesynchronises :
    Instr.getDabP.command = some .getDabP ∧ Command.getDabP.cls ≠ .write ∧ (reading .spi []).seqPhase = .read
      ∧ (reading .spi []).inputs.rx.length < (reading .spi []).seqCtx.n
      ∧ (reading .spi (goodDab.take 7)).inputs.rx.length < (reading .spi (goodDab.take 7)).seqCtx.n := by decide +kernel

theorem witness_ReadPhaseFillsOnlyOnSpi :
    Instr.getDabP.command = some .getDabP ∧ Command.getDabP.cls ≠ .write ∧ (reading .spi goodDab).seqPhase = .read
      ∧ (reading .spi goodDab).inputs.rx.length ≤ (reading .spi goodDab).seqCtx.n
      ∧ (reading .spi goodDab).seqCtx.t = .spi ∧ (reading .usbCtrl []).seqCtx.t = .usbCtrl
      ∧ (reading .usbCtrl []).inputs.rx.length ≤ (reading .usbCtrl []).seqCtx.n
      ∧ (reading .usbStream goodDab).seqCtx.t = .usbStream
      ∧ (reading .usbStream goodDab).inputs.rx.length ≤ (reading .usbStream goodDab).seqCtx.n := by decide +kernel

theorem witness_StopsAreNamed :
    dabWrite.command = some .setDabP ∧ (writing 10).seqPhase = .write
      ∧ (encodeInstr (writing 10).cfg dabWrite).length < (writing 10).inputs.txCount
      ∧ Instr.getDabP.command = some .getDabP ∧ Command.getDabP.cls ≠ .write
      ∧ (reading .spi (goodDab ++ [0#8])).seqPhase = .read
      ∧ (reading .spi (goodDab ++ [0#8])).seqCtx.n < (reading .spi (goodDab ++ [0#8])).inputs.rx.length
      ∧ { State.reset with seqPhase := .reserved3 }.seqPhase = .reserved3 ∧ State.reset.seqPhase = .idle
      ∧ Command.setDabP.cls = .write := by decide +kernel

theorem witness_UnassignedOpcodeIsUnsupported :
    entry (openOn .spi).cfg 0x7F#8 = none ∧ (openOn .spi).seqPhase = .idle ∧ (openOn .spi).chOpen = true
      ∧ entry (writing 9).cfg 0x7F#8 = none ∧ (writing 9).seqPhase = .write := by decide +kernel

/-- Each line of R90's list at its boundary, with the legal request beside it. -/
theorem witness_IllegalRequestsAreRefused :
    requestFault Config.tvcfg ⟨2#4, 0x01#8, 0#8, 0#8, []⟩ = some .callerId
      ∧ requestFault Config.tvcfg ⟨1#4, 0x01#8, 0#8, 0#8, []⟩ = none
      ∧ requestFault Config.tvcfg ⟨0#4, 0x00#8, 0#8, 0#8, []⟩ = some .reservedOpc
      ∧ requestFault Config.tvcfg ⟨0#4, 0x0B#8, 0#8, 0#8, []⟩ = some .reservedOpc
      ∧ requestFault Config.tvcfg ⟨0#4, 0x0A#8, 0#8, 0#8, []⟩ = none
      ∧ requestFault Config.tvcfg ⟨0#4, 0x02#8, 19#8, 0#8, []⟩ = some .kindId
      ∧ requestFault Config.tvcfg ⟨0#4, 0x03#8, 19#8, 0#8, []⟩ = some .kindId
      ∧ requestFault Config.tvcfg ⟨0#4, 0x03#8, 18#8, 0#8, []⟩ = none
      ∧ requestFault Config.tvcfg ⟨0#4, 0x05#8, 8#8, 0#8, []⟩ = some .telemetryKindId
      ∧ requestFault Config.tvcfg ⟨0#4, 0x05#8, 7#8, 0#8, []⟩ = none
      ∧ requestFault Config.tvcfg ⟨0#4, 0x08#8, 2#8, 0#8, []⟩ = some .linkId
      ∧ requestFault Config.tvcfg ⟨0#4, 0x08#8, 1#8, 0#8, []⟩ = none
      ∧ requestFault Config.tvcfg ⟨0#4, 0x04#8, 0#8, 3#8, []⟩ = some .transportId
      ∧ requestFault Config.tvcfg ⟨0#4, 0x0A#8, 0#8, 4#8, []⟩ = some .fieldB
      ∧ requestFault Config.tvcfg ⟨0#4, 0x04#8, 0#8, 2#8, []⟩ = none
      ∧ requestFault Config.tvcfg ⟨0#4, 0x01#8, 1#8, 0#8, []⟩ = some .fieldA
      ∧ requestFault Config.tvcfg ⟨0#4, 0x09#8, 1#8, 0#8, []⟩ = some .fieldA
      ∧ requestFault Config.tvcfg ⟨0#4, 0x09#8, 0#8, 1#8, []⟩ = some .fieldB
      ∧ requestFault Config.tvcfg ⟨0#4, 0x06#8, 0#8, 0#8, [0#8]⟩ = some .bodyNotEmpty
      ∧ requestFault Config.tvcfg ⟨0#4, 0x07#8, 0#8, 0#8, [0#8]⟩ = none := by decide +kernel

/-! #### Witnesses for the statements about a step -/

/-- The invariant of a state with no transaction in flight. -/
theorem inv_idle (s : State) (hc : s.cfg.wf = true)
    (hk : ∀ c, (s.pendingOf c).all (fun r => r.caller == c) = true) (hp : s.seqPhase = .idle) : Inv s where
  cfg := hc
  keyed c r h := by have := hk c; rw [h] at this; simpa using this
  phase := by rw [hp]; decide
  inFlight h := absurd hp h
  reading h := by rw [hp] at h; cases h

/-- The invariant of a transaction in flight. -/
theorem inv_flight (s : State) (cmd : Command) (d : List Byte) (hc : s.cfg.wf = true)
    (hk : ∀ c, (s.pendingOf c).all (fun r => r.caller == c) = true) (hp : s.seqPhase ≠ .reserved3)
    (hr : s.seqPhase = .read → s.seqCtx.cls ≠ .write ∧ s.seqCtx.n ≠ 0) (hf : InFlight s cmd d) : Inv s where
  cfg := hc
  keyed c r h := by have := hk c; rw [h] at this; simpa using this
  phase := hp
  inFlight _ := ⟨cmd, d, hf⟩
  reading := hr

/-- `writing m` with its transport step next. -/
def writeNext (m : Nat) : State := { writing m with agenda := [.txPhase m] }

/-- `reading .spi rx` with its transport step next. -/
def readNext (rx : List Byte) : State := { reading .spi rx with agenda := [.rxPhase rx] }

theorem inv_writeNext : Inv (writeNext 9) ∧ Inv (writeNext 8) := by
  constructor <;>
    exact inv_flight _ .setDabP [1#8, 2#8, 3#8, 4#8] (by decide +kernel) (by decide +kernel) (by decide +kernel)
      (by decide +kernel) (by constructor <;> decide +kernel)

theorem inv_readNext : Inv (readNext goodDab) := by
  exact inv_flight _ .getDabP [] (by decide +kernel) (by decide +kernel) (by decide +kernel)
    (by decide +kernel) (by constructor <;> decide +kernel)

theorem inv_ticking : Inv ticking := inv_idle _ (by decide +kernel) (by decide +kernel) (by decide +kernel)

theorem witness_StepRunsTheDecodedInstruction :
    ticking.cfg.wf = true ∧ ticking.agenda = [.take 1#4]
      ∧ ticking.pendingOf 1#4 = some (requestOf .tick 1#4 7#8 0#8 [])
      ∧ decodeBytes ticking.cfg .request (bytesOfRequest (requestOf .tick 1#4 7#8 0#8 [])) = .ok (.tick 1#4 .tick)
      ∧ (writeNext 9).agenda = [.txPhase 9] ∧ (writeNext 9).seqPhase = .write
      ∧ decodeBytes (writeNext 9).cfg .protocol (writeNext 9).seqCtx.tx = .ok dabWrite
      ∧ (readNext goodDab).agenda = [.rxPhase goodDab] ∧ (readNext goodDab).seqPhase = .read
      ∧ decodeBytes (readNext goodDab).cfg .protocol (readNext goodDab).seqCtx.tx = .ok .getDabP := by decide +kernel

theorem witness_IssuedRequestEntersPending :
    State.reset.cfg.wf = true
      ∧ { State.reset with agenda := [.issue (requestOf .tick 15#4 7#8 0#8 [])] }.agenda
        = [.issue (requestOf .tick 15#4 7#8 0#8 [])]
      ∧ State.reset.pendingOf 15#4 = none
      ∧ ticking.pendingOf 1#4 = some (requestOf .tick 1#4 7#8 0#8 []) := by decide +kernel

theorem witness_ResetEventAppliesTheTable :
    (writing 9).cfg.wf = true ∧ { writing 9 with agenda := [.reset] }.agenda = [.reset] := by decide +kernel

theorem witness_IllFormedConfigurationIsRefused :
    (State.resetWith { Config.tvcfg with nCallers := 17 }).cfg.wf = false := by decide +kernel

theorem witness_DecodeOfEncodeIsTheInstruction :
    Config.tvcfg.wf = true ∧ (Instr.encode 1#4 .dfuAck (zeros 4)).wf Config.tvcfg = true
      ∧ (Instr.illegalRequest .callerId ⟨15#4, 0x01#8, 0#8, 0#8, []⟩).wf Config.tvcfg = true
      ∧ dabWrite.wf Config.tvcfg = true ∧ (Instr.setMask 0xFF#8).wf Config.tvcfg = true
      ∧ Instr.getPing.wf Config.tvcfg = true
      ∧ (Instr.unassignedProtocolOpcode 0x00#8 [1#8]).wf Config.tvcfg = true := by decide +kernel

theorem witness_EncodeOfDecodeIsTheBytes :
    Config.tvcfg.wf = true
      ∧ decodeBytes Config.tvcfg .request [0x05#8, 0x07#8, 0x00#8, 0x01#8] = .ok (.tick 1#4 .tick)
      ∧ decodeBytes Config.tvcfg .protocol (0x01#8 :: goodDab) = .ok dabWrite := by decide +kernel

theorem witness_StepKeepsTheInvariant :
    (Inv ticking ∧ ∃ t, step ticking = .next t ∧ t.pendingOf 1#4 = none)
      ∧ (Inv (writeNext 9) ∧ ∃ t, step (writeNext 9) = .next t ∧ t.seqPhase = .idle)
      ∧ (Inv (readNext goodDab) ∧ ∃ t, step (readNext goodDab) = .next t ∧ t.seqPhase = .idle) :=
  ⟨⟨inv_ticking, next_of _ (by decide +kernel)⟩, ⟨inv_writeNext.1, next_of _ (by decide +kernel)⟩,
    inv_readNext, next_of _ (by decide +kernel)⟩

theorem witness_ResetMeetsTheInvariant : Config.tvcfg.wf = true := by decide +kernel

/-- The transport's answers of the greatest lengths its contract admits. -/
theorem witness_InvariantStatesStep :
    (Inv (writeNext 9) ∧ TransportKeepsContract (writeNext 9))
      ∧ (Inv (readNext goodDab) ∧ TransportKeepsContract (readNext goodDab)) := by
  refine ⟨⟨inv_writeNext.1, ?_, ?_⟩, inv_readNext, ?_, ?_⟩
  · intro m rest h
    have hm : m = 9 := by simpa [writeNext, eq_comm] using congrArg List.head? h
    subst hm; decide +kernel
  · intro rx rest h
    simp [writeNext] at h
  · intro m rest h
    simp [readNext] at h
  · intro rx rest h
    have hm : rx = goodDab := by simpa [readNext, eq_comm] using congrArg List.head? h
    subst hm; decide +kernel

/-- GET_DAB_P of V-EX-14 in its write phase, its transport step next. -/
def opcodeNext : State := { inFlight .write .spi .getDabP [] 0#8 1 [] with agenda := [.txPhase 1] }

theorem inv_opcodeNext : Inv opcodeNext := by
  exact inv_flight _ .getDabP [] (by decide +kernel) (by decide +kernel) (by decide +kernel)
    (by decide +kernel) (by constructor <;> decide +kernel)

theorem witness_TransactionRunsAlone :
    (Inv opcodeNext ∧ ∃ t, step opcodeNext = .next t ∧ (opcodeNext.seqPhase ≠ .idle ∧ t.seqPhase ≠ .idle))
      ∧ (Inv (writeNext 8) ∧ ∃ t, step (writeNext 8) = .next t ∧ ((writeNext 8).seqPhase ≠ .idle ∧ t.seqPhase = .idle)) :=
  ⟨⟨inv_opcodeNext, next_of _ (by decide +kernel)⟩, inv_writeNext.2, next_of _ (by decide +kernel)⟩

theorem witness_ResponsesAnswerPendingRequests :
    Inv ticking ∧ ∃ t, step ticking = .next t ∧ t.responses ≠ ticking.responses :=
  ⟨inv_ticking, next_of _ (by decide +kernel)⟩

/-- SET_MASK of V-EX-21 in its write phase, its transport step next. -/
def maskNext : State := { inFlight .write .usbStream .setMask [0x41#8] 0#8 2 [] with agenda := [.txPhase 2] }

theorem witness_OnlySetMaskAndResetChangeTheShadow :
    (∃ t, step maskNext = .next t ∧ t.maskShadow ≠ maskNext.maskShadow)
      ∧ ∃ t, step { State.reset with maskShadow := 0x41#8, agenda := [.reset] } = .next t ∧ t.maskShadow ≠ 0x41#8 :=
  ⟨next_of _ (by decide +kernel), next_of _ (by decide +kernel)⟩

/-- An OPEN and a CLOSE of caller 0 on a desynchronised channel, the caller's step next. -/
def desynced (r : Request) : State := taking { openOn .usb with desync := true } r

theorem witness_DesyncFollowsShortTransfers :
    (∃ t, step (writeNext 8) = .next t ∧ t.desync ≠ (writeNext 8).desync)
      ∧ (∃ t, step { openOn .usb with desync := true, agenda := [.reset] } = .next t ∧ t.desync ≠ true)
      ∧ (∃ t, step (desynced (requestOf .openChannel 0#4 1#8 0#8 [])) = .next t ∧ t.desync ≠ true)
      ∧ ∃ t, step (desynced (requestOf .closeChannel 0#4 0#8 0#8 [])) = .next t ∧ t.desync ≠ true :=
  ⟨next_of _ (by decide +kernel), next_of _ (by decide +kernel), next_of _ (by decide +kernel),
    next_of _ (by decide +kernel)⟩

/-- EXEC on a closed channel (V-EX-1), the caller's step next. -/
def closedExec : State := taking State.reset (requestOf .exec 0#4 0x81#8 0#8 [])

theorem witness_ErrorsLeaveOnlyDesync :
    (∃ t, step (writeNext 8) = .next t
        ∧ t.responses = (0#4, ⟨.shortTransfer, .short .write 8 9⟩) :: (writeNext 8).responses)
      ∧ (∃ t, step closedExec = .next t ∧ t.responses = (0#4, ⟨.channelNotOpen, .none⟩) :: closedExec.responses)
      ∧ (closedExec.agenda = [.take 0#4]
        ∧ closedExec.pendingOf 0#4 = some (requestOf .exec 0#4 0x81#8 0#8 [])
        ∧ decodeRequest closedExec.cfg (requestOf .exec 0#4 0x81#8 0#8 []) = .exec 0#4 0x81#8 .spi [])
      ∧ (∃ t, step (readNext badDab) = .next t ∧ t.responses
          = (0#4, ⟨.checksumError, .checksums 0xA55AAD7A#32 0x793737CD#32⟩) :: (readNext badDab).responses)
      ∧ (⟨.shortTransfer, .short .write 8 9⟩ : Response).status ≠ .ok
      ∧ (⟨.channelNotOpen, .none⟩ : Response).status ≠ .ok :=
  ⟨next_of _ (by decide +kernel), next_of _ (by decide +kernel), by decide +kernel, next_of _ (by decide +kernel),
    by decide, by decide⟩

theorem witness_NonChannelOperationsIgnoreTheSequencer :
    (Instr.tick 0#4 .sig).nonChannel = true ∧ (Instr.parse 0#4 0xFF#8 []).nonChannel = true := by decide

theorem witness_CrcRegisterIsUnobservable : ∃ t, step (readNext goodDab) = .next t ∧ t.seqPhase = .idle :=
  next_of _ (by decide +kernel)

theorem witness_ClosedLinkIsUnobservable :
    closedExec.chOpen = false ∧ closedExec.seqPhase = .idle
      ∧ ∃ t, step closedExec = .next t ∧ t.responses ≠ [] :=
  ⟨by decide, by decide, next_of _ (by decide +kernel)⟩

/-- SET_DAB_P of V-EX-12 pending on an open channel, both its steps next. -/
def writeAhead : State :=
  { (openOn .spi).setPending 0#4 (some ⟨0#4, 0x0A#8, 0x01#8, 0#8, [1#8, 2#8, 3#8, 4#8]⟩) with
    agenda := [.take 0#4, .txPhase 9] }

theorem witness_RecordWriteTransactionRuns :
    Inv writeAhead ∧ writeAhead.seqPhase = .idle ∧ writeAhead.chOpen = true
      ∧ Transport.spi.link = writeAhead.chLink ∧ callerOk writeAhead.cfg 0#4 = true
      ∧ Command.setDabP.req = .record .dab ∧ (writeAhead.cfg.cap .setDabP).has .spi = true
      ∧ [1#8, 2#8, 3#8, 4#8].length = writeAhead.cfg.size .dab - 4
      ∧ writeAhead.pendingOf 0#4
        = some ⟨0#4, 0x0A#8, writeAhead.cfg.op .setDabP, Transport.spi.id, [1#8, 2#8, 3#8, 4#8]⟩
      ∧ writeAhead.agenda = [.take 0#4, .txPhase (writeAhead.cfg.size .dab + 1)] :=
  ⟨inv_idle _ (by decide +kernel) (by decide +kernel) (by decide +kernel), by decide +kernel⟩

/-- GET_DAB_P of V-EX-14 pending on an open channel, its three steps next. -/
def readAhead : State :=
  { (openOn .spi).setPending 0#4 (some ⟨0#4, 0x0A#8, 0x81#8, 0#8, []⟩) with
    agenda := [.take 0#4, .txPhase 1, .rxPhase goodDab] }

theorem witness_RecordReadTransactionRuns :
    Inv readAhead ∧ readAhead.seqPhase = .idle ∧ readAhead.chOpen = true
      ∧ Transport.spi.link = readAhead.chLink ∧ callerOk readAhead.cfg 0#4 = true
      ∧ Command.getDabP.resp = .record .dab ∧ (readAhead.cfg.cap .getDabP).has .spi = true
      ∧ [1#8, 2#8, 3#8, 4#8].length = readAhead.cfg.size .dab - 4
      ∧ readAhead.pendingOf 0#4 = some ⟨0#4, 0x0A#8, readAhead.cfg.op .getDabP, Transport.spi.id, []⟩
      ∧ readAhead.agenda = [.take 0#4, .txPhase 1,
          .rxPhase ([1#8, 2#8, 3#8, 4#8] ++ le32bytes (crc32 readAhead.cfg [1#8, 2#8, 3#8, 4#8]))] :=
  ⟨inv_idle _ (by decide +kernel) (by decide +kernel) (by decide +kernel), by decide +kernel⟩

end Sys2Proof.Tests
end

/-! ## The scope's statements (00_scope.md): what every step keeps (O48), the hold of the channel operations (O24), and
the refusal of an ill-formed configuration (O44) -/

namespace Sys2Proof.Machine

/-! ### PENDING (R31) -/

/-- PENDING alone decides a caller's pending request. -/
theorem pendingOf_congr {s t : State} (h : t.pending = s.pending) (c : Caller) : t.pendingOf c = s.pendingOf c := by
  simp only [State.pendingOf, h]

/-- Where one caller's request left PENDING, the other callers' slots are as before. -/
theorem pendingOf_of_left_ne {s t : State} {c c' : Caller} (h : t.pending = (s.setPending c none).pending)
    (hne : c' ≠ c) : t.pendingOf c' = s.pendingOf c' :=
  (pendingOf_congr h c').trans (State.pendingOf_setPending_ne s none hne)

/-- Where one caller's request left PENDING, every request still pending was pending before. -/
theorem pending_before_of_left {s t : State} {c c' : Caller} {r : Request}
    (h : t.pending = (s.setPending c none).pending) (hr : t.pendingOf c' = some r) : s.pendingOf c' = some r := by
  rcases eq_or_ne c' c with rfl | hne
  · rw [pendingOf_congr h, State.pendingOf_setPending_self] at hr
    cases hr
  · rwa [← pendingOf_of_left_ne h hne]

/-- A request at the port is dropped where its caller is blocked, and else enters PENDING (R6, R31). -/
theorem issue_cases (s : State) (r : Request) :
    s.issue r = s ∨ (s.pendingOf r.caller = none ∧ s.issue r = s.setPending r.caller (some r)) := by
  unfold State.issue
  split
  · exact .inl rfl
  · rename_i hn
    exact .inr ⟨by simpa using hn, rfl⟩

/-- No request is pending after RESET (R36). -/
theorem pendingOf_takeReset (s : State) (c : Caller) : s.takeReset.pendingOf c = none := by
  simp [State.pendingOf]

/-! ### The transaction in flight (R205) -/

/-- The elements a transaction in flight speaks of. -/
theorem InFlight.congr {s t : State} {cmd : Command} {d : List Byte} (h : InFlight s cmd d) (hcfg : t.cfg = s.cfg)
    (hctx : t.seqCtx = s.seqCtx) (hmask : t.maskShadow = s.maskShadow) (hopen : t.chOpen = s.chOpen)
    (hlink : t.chLink = s.chLink) (hown : t.pendingOf s.seqCtx.owner = s.pendingOf s.seqCtx.owner) :
    InFlight t cmd d where
  entry := by simpa only [hcfg, hctx] using h.entry
  body := by simpa only [hcfg] using h.body
  tx := by simpa only [hcfg, hctx] using h.tx
  cls := by simpa only [hctx] using h.cls
  n := by simpa only [hcfg, hctx, hmask] using h.n
  mask := by simpa only [hctx, hmask] using h.mask
  chOpen := hopen.trans h.chOpen
  link := by simpa only [hctx, hlink] using h.link
  permitted := by simpa only [hcfg, hctx] using h.permitted
  pending := by simpa only [hctx, hown] using h.pending
  caller := by simpa only [hcfg, hctx] using h.caller

/-- The write-phase bytes begin with the command's opcode (R81). -/
theorem issueBytes_head (cfg : Config) (cmd : Command) (d : List Byte) :
    ∃ rest, issueBytes cfg cmd d = cfg.op cmd :: rest := by
  unfold issueBytes
  split <;> exact ⟨_, rfl⟩

/-- The instruction the write-phase bytes in flight spell is one of the transaction's command (R81, R205). -/
theorem InFlight.command_eq {s : State} {cmd : Command} {d : List Byte} {i : Instr} (h : InFlight s cmd d)
    (hi : decodeWire s.cfg s.seqCtx.tx = .ok i) : i.command = some cmd := by
  obtain ⟨rest, htx⟩ := issueBytes_head s.cfg cmd d
  rw [h.tx, htx] at hi
  rw [command_of_decodeWire hi, op_of_entry h.entry, h.entry]

/-- The class of the context is its command's (R136, R205). -/
theorem InFlight.cls_eq {s : State} {cmd : Command} {d : List Byte} (h : InFlight s cmd d) (hw : s.cfg.wf = true) :
    s.seqCtx.cls = cmd.cls :=
  h.cls.trans (opClass_of_entry hw h.entry)

/-- A transaction in flight holds its owner's slot of PENDING with its EXEC (R31, R205): a pending request that spells
another operation is not the owner's. -/
theorem InFlight.owner_ne {s : State} {cmd : Command} {d : List Byte} {c : Caller} {r : Request}
    (h : InFlight s cmd d) (hr : s.pendingOf c = some r)
    (hne : ∀ op tr b, decodeRequest s.cfg r ≠ .exec c op tr b) : s.seqCtx.owner ≠ c := by
  rintro rfl
  cases h.pending.symm.trans hr
  exact hne _ _ _ (decodeRequest_requestOf_exec h.caller _ _ _)

/-! ### Transitions that keep the invariant -/

/-- The invariant of a state with no transaction in flight, whose requests were pending before. -/
theorem inv_of_idle {s t : State} (h : Inv s) (hcfg : t.cfg = s.cfg) (hidle : t.seqPhase = .idle)
    (hpend : ∀ c r, t.pendingOf c = some r → s.pendingOf c = some r) : Inv t where
  cfg := hcfg ▸ h.cfg
  keyed c r hr := h.keyed c r (hpend c r hr)
  phase := by simp [hidle]
  inFlight hp := absurd hidle hp
  reading hp := by simp [hidle] at hp

/-- The invariant of a state with the channel as before, where a transaction's owner keeps its request. -/
theorem inv_of_sameChannel {s t : State} (h : Inv s) (hcfg : t.cfg = s.cfg) (hch : SameChannel s t)
    (hkey : ∀ c r, t.pendingOf c = some r → r.caller = c)
    (hown : s.seqPhase ≠ .idle → t.pendingOf s.seqCtx.owner = s.pendingOf s.seqCtx.owner) : Inv t where
  cfg := hcfg ▸ h.cfg
  keyed := hkey
  phase := hch.seqPhase ▸ h.phase
  inFlight hp := by
    have hp' : s.seqPhase ≠ .idle := hch.seqPhase ▸ hp
    obtain ⟨cmd, d, hf⟩ := h.inFlight hp'
    exact ⟨cmd, d, hf.congr hcfg hch.seqCtx hch.maskShadow hch.chOpen hch.chLink (hown hp')⟩
  reading hp := by
    rw [hch.seqCtx]
    exact h.reading (hch.seqPhase ▸ hp)

/-- The agenda and the inputs are no part of the invariant. -/
theorem inv_of_sameBlock {s t : State} (h : Inv s) (hcfg : t.cfg = s.cfg) (hch : SameChannel s t)
    (hpend : t.pending = s.pending) : Inv t :=
  inv_of_sameChannel h hcfg hch (fun c r hr => h.keyed c r (pendingOf_congr hpend c ▸ hr))
    fun _ => pendingOf_congr hpend _

/-- A request other than a transaction's own leaves PENDING, and the channel stays as it is (R10, R247). -/
theorem inv_of_request_left {s t : State} {c : Caller} (h : Inv s) (hcfg : t.cfg = s.cfg) (hch : SameChannel s t)
    (hpend : t.pending = (s.setPending c none).pending) (hne : s.seqPhase ≠ .idle → s.seqCtx.owner ≠ c) : Inv t :=
  inv_of_sameChannel h hcfg hch (fun c' r hr => h.keyed c' r (pending_before_of_left hpend hr))
    fun hp => pendingOf_of_left_ne hpend (hne hp)

/-- The port keeps each request under its caller's id, and takes none from a caller that has one (R31). -/
theorem inv_issue {s : State} (h : Inv s) (r : Request) : Inv (s.issue r) := by
  obtain e | ⟨hfree, e⟩ := issue_cases s r
  · rwa [e]
  · rw [e]
    refine inv_of_sameChannel h rfl ⟨rfl, rfl, rfl, rfl, rfl, rfl⟩ (fun c r' hr => ?_) fun hp => ?_
    · rcases eq_or_ne c r.caller with rfl | hne
      · rw [State.pendingOf_setPending_self] at hr
        cases hr
        rfl
      · rw [State.pendingOf_setPending_ne s _ hne] at hr
        exact h.keyed c r' hr
    · obtain ⟨cmd, d, hf⟩ := h.inFlight hp
      refine State.pendingOf_setPending_ne s _ fun hown => ?_
      cases hfree.symm.trans (hown ▸ hf.pending)

/-! ### The instruction of a step -/

/-- An instruction the block's step runs comes from the state: a request-port instruction is the asker's pending
request (R59, R86), a catalog command is spelled by the write-phase bytes in flight (R81). -/
structure Fetches (i : Instr) (s : State) : Prop where
  asked : ∀ c, i.asker = some c → ∃ r, s.pendingOf c = some r ∧ decodeRequest s.cfg r = i
  spelled : ∀ cmd, i.command = some cmd → decodeWire s.cfg s.seqCtx.tx = .ok i

theorem fetches_request {s : State} {c : Caller} {r : Request} (h : Inv s) (hr : s.pendingOf c = some r) :
    Fetches (decodeRequest s.cfg r) s where
  asked c' ha := by
    rw [asker_decodeRequest, h.keyed c r hr] at ha
    cases ha
    exact ⟨r, hr, rfl⟩
  spelled cmd hc := by
    have := asker_decodeRequest s.cfg r
    rw [asker_of_command hc] at this
    cases this

theorem fetches_wire {s : State} {i : Instr} (hi : decodeWire s.cfg s.seqCtx.tx = .ok i) : Fetches i s where
  asked c ha := by
    rw [asker_decodeWire hi] at ha
    cases ha
  spelled _ _ := hi

/-- An operation other than EXEC does not ask for the owner of a transaction in flight (R31, R205). -/
theorem owner_ne_of_fetches {i : Instr} {s : State} {c : Caller} (h : Inv s) (hi : Fetches i s)
    (ha : i.asker = some c) (hne : ∀ op tr b, i ≠ .exec c op tr b) (hp : s.seqPhase ≠ .idle) :
    s.seqCtx.owner ≠ c := by
  obtain ⟨r, hr, rfl⟩ := hi.asked c ha
  obtain ⟨cmd, d, hf⟩ := h.inFlight hp
  exact hf.owner_ne hr hne

/-- The issue step of a pending EXEC that passes R204's checks puts a transaction in flight (R205). -/
theorem inFlight_of_issue {s : State} {c : Caller} {op : Byte} {tr : Transport} {d : List Byte} {cmd : Command}
    (hi : Fetches (.exec c op tr d) s) (hopen : s.chOpen = true) (hlink : tr.link = s.chLink)
    (he : entry s.cfg op = some cmd) (hperm : permitted s.cfg op tr = true) (hd : d.length = bodyLen s.cfg cmd) :
    InFlight { s with crcAcc := issueAcc cmd s.crcAcc d, seqCtx := issueCtx s c cmd op tr d, seqPhase := .write }
      cmd d := by
  obtain ⟨r, hr, hdec⟩ := hi.asked c rfl
  obtain ⟨rfl, hcaller⟩ := decodeRequest_exec hdec
  exact
    { entry := he, body := hd, tx := rfl, cls := rfl, n := rfl, mask := rfl, chOpen := hopen, link := hlink
      permitted := hperm, pending := hr, caller := hcaller }

/-- The read phase of a transaction in flight begins, for a read with bytes to come (R208). -/
theorem inv_of_enters {s : State} {i : Instr} {cmd : Command} (h : Inv s) (hi : Fetches i s)
    (hc : i.command = some cmd) (hcls : cmd.cls ≠ .write) (hn : s.seqCtx.n ≠ 0) (hp : s.seqPhase = .write)
    (x : Transfer) : Inv { s.logTransfer x with seqPhase := .read } := by
  obtain ⟨cmd', d, hf⟩ := h.inFlight (by simp [hp])
  cases hc.symm.trans (hf.command_eq (hi.spelled cmd hc))
  exact
    { cfg := h.cfg
      keyed := h.keyed
      phase := by simp
      inFlight := fun _ => ⟨cmd, d, hf.congr rfl rfl rfl rfl rfl rfl⟩
      reading := fun _ => ⟨(hf.cls_eq h.cfg).trans_ne hcls, hn⟩ }

/-- Whatever an instruction of the state does keeps the invariant: an operation that answers another caller leaves the
transaction alone, an end of the transaction and the channel's own operations leave the phase IDLE, and the issue step
and the read-phase entry make the transaction the invariant describes. -/
theorem effect_keeps_inv {i : Instr} {s t : State} (h : Inv s) (hi : Fetches i s) (he : Effect i s t) : Inv t := by
  cases he with
  | answers c r acc ha hk =>
    refine inv_of_request_left (c := c) h rfl ⟨rfl, rfl, rfl, rfl, rfl, rfl⟩ rfl fun hp => ?_
    refine owner_ne_of_fetches h hi ha ?_ hp
    rintro op tr b rfl
    exact hk.elim (by simp [Instr.nonChannel]) hp
  | ticks c k =>
    exact inv_of_request_left (c := c) h rfl ⟨rfl, rfl, rfl, rfl, rfl, rfl⟩ rfl
      (owner_ne_of_fetches h hi rfl (by simp))
  | refuses c hk =>
    refine inv_of_request_left (c := c) h rfl ⟨rfl, rfl, rfl, rfl, rfl, rfl⟩ rfl ?_
    obtain ⟨m, rfl⟩ | ⟨why, r, rfl, rfl⟩ := hk <;> exact owner_ne_of_fetches h hi rfl (by simp)
  | holds => exact h
  | opens c l hp => exact inv_of_idle h rfl hp fun _ _ => pending_before_of_left (c := c) rfl
  | closes c hp => exact inv_of_idle h rfl hp fun _ _ => pending_before_of_left (c := c) rfl
  | issues c op tr d cmd hp hopen hlink he hperm hd =>
    exact
      { cfg := h.cfg
        keyed := h.keyed
        phase := by simp
        inFlight := fun _ => ⟨cmd, d, inFlight_of_issue hi hopen hlink he hperm hd⟩
        reading := fun hr => by simp at hr }
  | short | masks | finishes | rejects =>
    exact inv_of_idle h rfl rfl fun _ _ => pending_before_of_left (c := s.seqCtx.owner) rfl
  | enters cmd x hc hcls hp hn => exact inv_of_enters h hi hc hcls hn hp x

/-- Every case of a step keeps the invariant. -/
theorem stepCase_keeps_inv {s t : State} (h : Inv s) (hc : StepCase s t) : Inv t := by
  have hrest : ∀ (rest : List Event) (inputs : Inputs), Inv { s with agenda := rest, inputs := inputs } := fun _ _ =>
    inv_of_sameBlock h rfl ⟨rfl, rfl, rfl, rfl, rfl, rfl⟩ rfl
  cases hc with
  | waits => exact h
  | issue r rest => exact inv_issue (hrest rest s.inputs) r
  | sample k p rest => exact hrest rest _
  | reset rest =>
    refine inv_of_idle h rfl rfl fun c r hr => ?_
    rw [pendingOf_takeReset] at hr
    cases hr
  | skips e rest => exact hrest rest s.inputs
  | runs c r rest _ hr he => exact effect_keeps_inv (hrest rest s.inputs) (fetches_request (hrest rest s.inputs) hr) he
  | writes m rest i _ _ hi _ he => exact effect_keeps_inv (hrest rest _) (fetches_wire hi) he
  | reads rx rest i _ _ hi _ he => exact effect_keeps_inv (hrest rest _) (fetches_wire hi) he

/-- Settles O48: every case of a step, by `step_cases`, keeps the invariant. -/
theorem stepKeepsTheInvariant : Obligations.StepKeepsTheInvariant :=
  fun _ _ h hs => stepCase_keeps_inv h (step_cases hs)

/-! ### Holds and refusals -/

/-- A channel operation holds while a transaction is in flight (R62). -/
theorem whenIdle_of_inFlight {s : State} (go : State) (h : s.seqPhase = .write ∨ s.seqPhase = .read) :
    whenIdle s go = .next s := by
  obtain hp | hp := h <;> simp only [whenIdle, hp]

/-- Settles O24: EXEC, OPEN and CLOSE each run under the channel's exclusion. -/
theorem channelOperationsHoldInFlight : Obligations.ChannelOperationsHoldInFlight :=
  fun _ _ _ _ _ _ h => ⟨whenIdle_of_inFlight _ h, whenIdle_of_inFlight _ h, whenIdle_of_inFlight _ h⟩

/-- The step over an ill-formed configuration (R8, log 15). -/
theorem step_of_not_wf {s : State} (h : s.cfg.wf = false) : step s = .refused .illFormedConfiguration :=
  if_neg (by simp [h])

/-- Settles O44. -/
theorem illFormedConfigurationIsRefused : Obligations.IllFormedConfigurationIsRefused :=
  fun _ h => step_of_not_wf h

end Sys2Proof.Machine

/-! ## The state's statements (10_state.md): which steps change an element (O15, O52, O53, O54), what no step reads
(O57, O58), a request's entry (O41), and the state after reset (O43, O49) -/

namespace Sys2Proof.Machine

/-! ### The instruction that changes an element -/

/-- Of the instructions TICK alone changes a counter (R23, R173). -/
theorem effect_cnt {i : Instr} {s t : State} (h : Effect i s t) : t.cnt = s.cnt ∨ ∃ c k, i = .tick c k := by
  cases h with
  | ticks c k => exact .inr ⟨c, k, rfl⟩
  | answers | refuses | holds | opens | closes | issues | short | masks | enters | finishes | rejects =>
    exact .inl rfl

/-- Of the instructions SET_MASK alone changes the mask shadow, when its two bytes are out (R29, R207). -/
theorem effect_maskShadow {i : Instr} {s t : State} (h : Effect i s t) :
    t.maskShadow = s.maskShadow
      ∨ ∃ m, i = .setMask m ∧ s.seqPhase = .write ∧ s.inputs.txCount = 2 ∧ t.maskShadow = m := by
  cases h with
  | masks m x hp hn => exact .inr ⟨m, rfl, hp, hn, rfl⟩
  | answers | ticks | refuses | holds | opens | closes | issues | short | enters | finishes | rejects =>
    exact .inl rfl

/-- Of the instructions' effects a short phase alone sets `S.DESYNC`, and OPEN and CLOSE clear it (R25). -/
theorem effect_desync {i : Instr} {s t : State} (h : Effect i s t) :
    t.desync = s.desync
      ∨ (t.desync = true ∧ ∃ p m n, t.responses = (s.seqCtx.owner, ⟨.shortTransfer, .short p m n⟩) :: s.responses)
      ∨ (t.desync = false ∧ ∃ c, (∃ l, i = .openChannel c l) ∨ i = .closeChannel c) := by
  cases h with
  | short x p m n => exact .inr (.inl ⟨rfl, p, m, n, rfl⟩)
  | opens c l => exact .inr (.inr ⟨rfl, c, .inl ⟨l, rfl⟩⟩)
  | closes c => exact .inr (.inr ⟨rfl, c, .inr rfl⟩)
  | answers | ticks | refuses | holds | issues | masks | enters | finishes | rejects => exact .inl rfl

/-- A phase in flight is not IDLE (R27). -/
theorem ne_idle_of_inFlight {p : SeqPhase} (h : p = .write ∨ p = .read) : p ≠ .idle := by
  obtain rfl | rfl := h <;> decide

/-- An instruction gives at most one response, to its asker or to the owner of the transaction in flight, whose request
leaves PENDING (R10, R31). -/
theorem effect_responses {i : Instr} {s t : State} (h : Effect i s t) :
    t.responses = s.responses
      ∨ ∃ c r, t.responses = (c, r) :: s.responses ∧ t.pendingOf c = none
          ∧ (i.asker = some c ∨ (c = s.seqCtx.owner ∧ s.seqPhase ≠ .idle)) := by
  cases h with
  | refuses | holds | issues | enters => exact .inl rfl
  | answers c r acc ha => exact .inr ⟨c, r, rfl, State.pendingOf_respond_self _ c r, .inl ha⟩
  | ticks c | opens c | closes c => exact .inr ⟨c, _, rfl, State.pendingOf_respond_self _ c _, .inl rfl⟩
  | short x p m n _ hp =>
    exact .inr ⟨_, _, rfl, State.pendingOf_respond_self _ _ _, .inr ⟨rfl, ne_idle_of_inFlight hp⟩⟩
  | finishes x acc r _ _ hp =>
    exact .inr ⟨_, r, rfl, State.pendingOf_respond_self _ _ _, .inr ⟨rfl, ne_idle_of_inFlight hp⟩⟩
  | masks m x hp => exact .inr ⟨_, _, rfl, State.pendingOf_respond_self _ _ _, .inr ⟨rfl, ne_idle_of_inFlight (.inl hp)⟩⟩
  | rejects r _ _ hp => exact .inr ⟨_, r, rfl, State.pendingOf_respond_self _ _ _, .inr ⟨rfl, ne_idle_of_inFlight (.inl hp)⟩⟩

/-- In a reachable state the caller an instruction answers has a pending request (R31, R205). -/
theorem effect_answers_pending {i : Instr} {s t : State} (h : Inv s) (hi : Fetches i s) (he : Effect i s t) :
    t.responses = s.responses
      ∨ ∃ c r q, t.responses = (c, r) :: s.responses ∧ s.pendingOf c = some q ∧ t.pendingOf c = none := by
  obtain hr | ⟨c, r, hr, hleft, ha | ⟨rfl, hp⟩⟩ := effect_responses he
  · exact .inl hr
  · obtain ⟨q, hq, -⟩ := hi.asked c ha
    exact .inr ⟨c, r, q, hr, hq, hleft⟩
  · obtain ⟨cmd, d, hf⟩ := h.inFlight hp
    exact .inr ⟨_, r, _, hr, hf.pending, hleft⟩

/-! ### The step that changes an element -/

/-- A request spells an operation of its own caller (R85). -/
theorem caller_of_asker {cfg : Config} {r : Request} {c : Caller} (h : (decodeRequest cfg r).asker = some c) :
    r.caller = c :=
  Option.some.inj ((asker_decodeRequest cfg r).symm.trans h)

/-- Write-phase bytes spell no operation of the request port (R81). -/
theorem decodeWire_ne_of_asker {cfg : Config} {bs : List Byte} {i : Instr} {c : Caller} (h : i.asker = some c) :
    decodeWire cfg bs ≠ .ok i := fun hi => by
  rw [asker_decodeWire hi] at h
  cases h

/-- Settles O15: the case of a step that runs an instruction turns on `effect_cnt`, and a TICK comes from a request. -/
theorem onlyTickAndResetChangeCounters : Obligations.OnlyTickAndResetChangeCounters := by
  intro s t h hne
  cases step_cases h with
  | waits | issue | sample | skips => exact absurd (by simp) hne
  | reset rest ha => exact .inl ⟨rest, ha⟩
  | runs c r rest ha hr he =>
    obtain hc | ⟨c', k, hi⟩ := effect_cnt he
    · exact absurd hc hne
    · obtain rfl : r.caller = c' := caller_of_asker (by rw [hi]; rfl)
      exact .inr ⟨c, rest, r, k, ha, hr, hi⟩
  | writes _ _ _ _ _ hi _ he | reads _ _ _ _ _ hi _ he =>
    obtain hc | ⟨c, k, rfl⟩ := effect_cnt he
    · exact absurd hc hne
    · exact absurd hi (decodeWire_ne_of_asker rfl)

/-- Settles O53: a SET_MASK comes from the write-phase bytes in flight, and the transport's count is its two bytes. -/
theorem onlySetMaskAndResetChangeTheShadow : Obligations.OnlySetMaskAndResetChangeTheShadow := by
  intro s t h hne
  cases step_cases h with
  | waits | issue | sample | skips => exact absurd (by simp) hne
  | reset rest ha => exact .inl ⟨rest, ha⟩
  | runs c r rest ha hr he =>
    obtain hm | ⟨m, hi, -⟩ := effect_maskShadow he
    · exact absurd hm hne
    · cases (asker_decodeRequest s.cfg r).symm.trans (congrArg Instr.asker hi)
  | writes n rest i ha hp hi _ he =>
    obtain hm | ⟨m, rfl, -, rfl, hm⟩ := effect_maskShadow he
    · exact absurd hm hne
    · exact .inr ⟨m, rest, ha, hp, hi, hm⟩
  | reads rx rest i ha hp hi _ he =>
    obtain hm | ⟨m, -, hw, -⟩ := effect_maskShadow he
    · exact absurd hm hne
    · cases hp.symm.trans hw

/-- Settles O54: by `effect_desync`, since OPEN and CLOSE come from a request. -/
theorem desyncFollowsShortTransfers : Obligations.DesyncFollowsShortTransfers := by
  intro s t h hne
  cases step_cases h with
  | waits | issue | sample | skips => exact absurd (by simp) hne
  | reset rest ha => exact .inr (.inl ⟨rfl, rest, ha⟩)
  | runs c r rest ha hr he =>
    obtain hd | hd | ⟨hd, c', hi⟩ := effect_desync he
    · exact absurd hd hne
    · exact .inl hd
    · obtain rfl : r.caller = c' := caller_of_asker (by obtain ⟨l, e⟩ | e := hi <;> rw [e] <;> rfl)
      exact .inr (.inr ⟨hd, c, rest, r, ha, hr, hi⟩)
  | writes _ _ _ _ _ hi _ he | reads _ _ _ _ _ hi _ he =>
    obtain hd | hd | ⟨-, c, ⟨l, rfl⟩ | rfl⟩ := effect_desync he
    · exact absurd hd hne
    · exact .inl hd
    · exact absurd hi (decodeWire_ne_of_asker rfl)
    · exact absurd hi (decodeWire_ne_of_asker rfl)

/-- Settles O52: by `effect_answers_pending` in the state the step's instruction runs in, which meets the invariant. -/
theorem responsesAnswerPendingRequests : Obligations.ResponsesAnswerPendingRequests := by
  intro s t h hs
  have hrest : ∀ (rest : List Event) (inputs : Inputs), Inv { s with agenda := rest, inputs := inputs } := fun _ _ =>
    inv_of_sameBlock h rfl ⟨rfl, rfl, rfl, rfl, rfl, rfl⟩ rfl
  cases step_cases hs with
  | waits | issue | sample | skips | reset => exact .inl (by simp)
  | runs c r rest _ hr he =>
    have hi := fetches_request (s := { s with agenda := rest }) (hrest rest s.inputs) hr
    exact effect_answers_pending (s := { s with agenda := rest }) (hrest rest s.inputs) hi he
  | writes m rest i _ _ hi _ he =>
    exact effect_answers_pending (s := { s with agenda := rest, inputs := _ }) (hrest rest _) (fetches_wire hi) he
  | reads rx rest i _ _ hi _ he =>
    exact effect_answers_pending (s := { s with agenda := rest, inputs := _ }) (hrest rest _) (fetches_wire hi) he

/-! ### A request's entry, and the state after reset -/

/-- The step of a request that is issued (R31, log 5). -/
theorem step_issue {s : State} {r : Request} {rest : List Event} (hw : s.cfg.wf = true)
    (ha : s.agenda = .issue r :: rest) : step s = .next ({ s with agenda := rest }.issue r) := by
  rw [step_eq hw, fetch, ha]
  rfl

/-- A caller that is blocked issues nothing (R6). -/
theorem issue_of_blocked {s : State} {r q : Request} (h : s.pendingOf r.caller = some q) : s.issue r = s :=
  if_pos (by rw [h]; rfl)

/-- A caller that is not blocked puts its request into PENDING (R31). -/
theorem issue_of_free {s : State} {r : Request} (h : s.pendingOf r.caller = none) :
    s.issue r = s.setPending r.caller (some r) :=
  if_neg (by simp [h])

/-- Settles O41: where the caller is blocked the request is dropped, and else its slot of PENDING is written. -/
theorem issuedRequestEntersPending : Obligations.IssuedRequestEntersPending := by
  intro s r rest hw ha
  refine ⟨_, step_issue hw ha, ?_⟩
  cases hq : s.pendingOf r.caller with
  | some q =>
    rw [issue_of_blocked (s := { s with agenda := rest }) hq]
    exact ⟨nofun, fun _ h => hq.trans h, fun _ _ => rfl, rfl⟩
  | none =>
    rw [issue_of_free (s := { s with agenda := rest }) hq]
    exact ⟨fun _ => State.pendingOf_setPending_self _ _ _, nofun,
      fun c hc => State.pendingOf_setPending_ne { s with agenda := rest } _ hc, rfl⟩

/-- No request is pending right after reset (R36). -/
theorem pendingOf_resetWith (cfg : Config) (c : Caller) : (State.resetWith cfg).pendingOf c = none := by
  simp [State.pendingOf, State.resetWith]

/-- Every counter holds `CNT_RESET` right after reset (R23, R36). -/
theorem counter_resetWith (cfg : Config) (k : TKind) : (State.resetWith cfg).counter k = Config.cntReset := by
  simp [State.counter, State.resetWith]

/-- Settles O43. -/
theorem resetStateHoldsTheTable : Obligations.ResetStateHoldsTheTable :=
  fun cfg => ⟨counter_resetWith cfg, rfl, rfl, rfl, rfl, pendingOf_resetWith cfg⟩

/-- The state after reset has no request pending and no transaction in flight. -/
theorem inv_resetWith {cfg : Config} (h : cfg.wf = true) : Inv (State.resetWith cfg) where
  cfg := h
  keyed c r hr := by
    rw [pendingOf_resetWith] at hr
    cases hr
  phase := nofun
  inFlight hp := absurd rfl hp
  reading := nofun

/-- Settles O49: the configuration of `State.reset` is well-formed. -/
theorem resetMeetsTheInvariant : Obligations.ResetMeetsTheInvariant :=
  ⟨fun _ => inv_resetWith, inv_resetWith (by decide +kernel)⟩

/-! ### An element of the state the fetch does not read -/

/-- An answer with its next state overwritten. -/
def mapNext (g : State → State) : Answer → Answer
  | .next s => .next (g s)
  | .fault f => .fault f
  | .refused r => .refused r

/-- A fetch with its state overwritten. -/
def Fetched.map (g : State → State) : Fetched → Fetched
  | .run i s => .run i (g s)
  | .quiet s => .quiet (g s)
  | .stop f => .stop f

/-- `put s x` overwrites an element of the block that the choice of the next step neither reads nor writes, except that
RESET may draw a new value for it (R270). -/
structure Hidden {α : Type} (put : State → α → State) : Prop where
  cfg : ∀ s x, (put s x).cfg = s.cfg
  agenda : ∀ s x, (put s x).agenda = s.agenda
  inputs : ∀ s x, (put s x).inputs = s.inputs
  seqPhase : ∀ s x, (put s x).seqPhase = s.seqPhase
  seqCtx : ∀ s x, (put s x).seqCtx = s.seqCtx
  pendingOf : ∀ s x c, (put s x).pendingOf c = s.pendingOf c
  setAgenda : ∀ s x l, { put s x with agenda := l } = put { s with agenda := l } x
  setInputs : ∀ s x n, { put s x with inputs := n } = put { s with inputs := n } x
  setPending : ∀ s x c r, (put s x).setPending c r = put (s.setPending c r) x
  takeReset : ∀ s x, ∃ y, (put s x).takeReset = put s.takeReset y

/-- Overwriting the element before `f` answers is overwriting it in the answer: `f` does not read it in state `s`. -/
def BlindAt {α : Type} (put : State → α → State) (s : State) (f : State → Answer) : Prop :=
  ∀ x, ∃ y, f (put s x) = mapNext (put · y) (f s)

section Hidden

variable {α : Type} {put : State → α → State}

theorem issue_put (H : Hidden put) (s : State) (x : α) (r : Request) : (put s x).issue r = put (s.issue r) x := by
  cases hq : s.pendingOf r.caller with
  | some q => rw [issue_of_blocked hq, issue_of_blocked ((H.pendingOf s x _).trans hq)]
  | none => rw [issue_of_free hq, issue_of_free ((H.pendingOf s x _).trans hq), H.setPending]

theorem fetchRequest_put (H : Hidden put) (s : State) (x : α) (c : Caller) :
    fetchRequest (put s x) c = (fetchRequest s c).map (put · x) := by
  rw [fetchRequest, fetchRequest, H.pendingOf, H.cfg]
  cases s.pendingOf c <;> rfl

theorem fetchWire_put (H : Hidden put) (s : State) (x : α) :
    fetchWire (put s x) = (fetchWire s).map (put · x) := by
  rw [fetchWire, fetchWire, H.cfg, H.seqCtx]
  cases decodeWire s.cfg s.seqCtx.tx <;> rfl

theorem fetchPhase_put (H : Hidden put) (s s1 : State) (x : α) (p : SeqPhase) :
    fetchPhase (put s x) p (put s1 x) = (fetchPhase s p s1).map (put · x) := by
  rw [fetchPhase, fetchPhase, H.seqPhase]
  split
  · rfl
  · split
    · exact fetchWire_put H s1 x
    · rfl

/-- What an entry of the agenda asks for does not depend on the element. -/
theorem fetchEvent_put (H : Hidden put) (s : State) (x : α) (e : Event) :
    ∃ y, fetchEvent (put s x) e = (fetchEvent s e).map (put · y) := by
  cases e with
  | issue r => exact ⟨x, congrArg Fetched.quiet (issue_put H s x r)⟩
  | take c => exact ⟨x, fetchRequest_put H s x c⟩
  | txPhase m =>
    refine ⟨x, ?_⟩
    simp only [fetchEvent, H.inputs, H.setInputs]
    exact fetchPhase_put H s _ x .write
  | rxPhase rx =>
    refine ⟨x, ?_⟩
    simp only [fetchEvent, H.inputs, H.setInputs]
    exact fetchPhase_put H s _ x .read
  | sample k p =>
    refine ⟨x, ?_⟩
    simp only [fetchEvent, State.present, H.inputs, H.setInputs]
    rfl
  | reset =>
    obtain ⟨y, e⟩ := H.takeReset s x
    exact ⟨y, congrArg Fetched.quiet e⟩

theorem fetch_put (H : Hidden put) (s : State) (x : α) : ∃ y, fetch (put s x) = (fetch s).map (put · y) := by
  rw [fetch, fetch, H.agenda]
  cases s.agenda with
  | nil => exact ⟨x, rfl⟩
  | cons e rest =>
    simp only [H.setAgenda]
    exact fetchEvent_put H _ x e

/-- A step does not read the element, if the instruction it runs does not. -/
theorem blindAt_step (H : Hidden put) {s : State} (h : ∀ i s1, fetch s = .run i s1 → BlindAt put s1 (exec i)) :
    BlindAt put s step := by
  intro x
  rw [step, step, H.cfg]
  split
  · obtain ⟨y, hy⟩ := fetch_put H s x
    rw [hy]
    cases hf : fetch s with
    | run i s1 => exact h i s1 hf y
    | quiet s1 => exact ⟨y, rfl⟩
    | stop f => exact ⟨y, rfl⟩
  · exact ⟨x, rfl⟩

/-- The channel's exclusion does not read the element, if the operation it lets through does not (R62). -/
theorem blindAt_whenIdle (H : Hidden put) {s : State} {go : State → State}
    (h : ∀ x, ∃ y, go (put s x) = put (go s) y) : BlindAt put s (fun s => whenIdle s (go s)) := by
  intro x
  simp only [whenIdle, H.seqPhase]
  cases s.seqPhase with
  | idle =>
    obtain ⟨y, e⟩ := h x
    exact ⟨y, congrArg Host.Outcome.next e⟩
  | write | read | reserved3 => exact ⟨x, rfl⟩

end Hidden

/-! ### The CRC register (R30) -/

/-- The state with another value in `S.CRC_ACC` (R30). -/
def State.withAcc (s : State) (v : Word) : State := { s with crcAcc := v }

@[simp] theorem withAcc_cfg (s : State) (v : Word) : (s.withAcc v).cfg = s.cfg := rfl
@[simp] theorem withAcc_chOpen (s : State) (v : Word) : (s.withAcc v).chOpen = s.chOpen := rfl
@[simp] theorem withAcc_chLink (s : State) (v : Word) : (s.withAcc v).chLink = s.chLink := rfl
@[simp] theorem withAcc_seqPhase (s : State) (v : Word) : (s.withAcc v).seqPhase = s.seqPhase := rfl
@[simp] theorem withAcc_seqCtx (s : State) (v : Word) : (s.withAcc v).seqCtx = s.seqCtx := rfl
@[simp] theorem withAcc_inputs (s : State) (v : Word) : (s.withAcc v).inputs = s.inputs := rfl
@[simp] theorem withAcc_cnt (s : State) (v : Word) : (s.withAcc v).cnt = s.cnt := rfl
@[simp] theorem withAcc_crcAcc (s : State) (v : Word) : (s.withAcc v).crcAcc = v := rfl

theorem hidden_withAcc : Hidden State.withAcc where
  cfg _ _ := rfl
  agenda _ _ := rfl
  inputs _ _ := rfl
  seqPhase _ _ := rfl
  seqCtx _ _ := rfl
  pendingOf _ _ _ := rfl
  setAgenda _ _ _ := rfl
  setInputs _ _ _ := rfl
  setPending _ _ _ _ := rfl
  takeReset s _ := ⟨s.takeReset.crcAcc, rfl⟩

/-- The compositor's loop only overwrites the register: its composite and its refusal do not depend on it (R176). -/
theorem buildFrom_acc (cfg : Config) (cnt : Vector Word 8) (src : Vector (List Byte) 8) (m : Byte) (l : List TKind)
    (out : List Byte) (acc acc' : Word) :
    (buildFrom cfg cnt src m l out acc).map Prod.fst = (buildFrom cfg cnt src m l out acc').map Prod.fst := by
  induction l generalizing out with
  | nil => rfl
  | cons c cs ih =>
    rw [buildFrom, buildFrom]
    split
    · rfl
    · exact ih out

/-- One pass of the parser's loop only overwrites the register (R181). -/
theorem parseKind_acc (cfg : Config) (d : List Byte) (st : ParseState) (c : TKind) (acc : Word) :
    ∃ acc', parseKind cfg d { st with acc := acc } c = { parseKind cfg d st c with acc := acc' } := by
  unfold parseKind
  simp only [decodeRecord_acc c.toKind acc st.acc]
  split
  · exact ⟨acc, rfl⟩
  · split
    · exact ⟨acc, rfl⟩
    · exact ⟨_, rfl⟩

/-- The parser's loop only overwrites the register (R181). -/
theorem parseFrom_acc (cfg : Config) (m : Byte) (d : List Byte) (l : List TKind) (st : ParseState) (acc : Word) :
    ∃ acc', parseFrom cfg m d l { st with acc := acc } = { parseFrom cfg m d l st with acc := acc' } := by
  induction l generalizing st acc with
  | nil => exact ⟨acc, rfl⟩
  | cons c cs ih =>
    rw [parseFrom, parseFrom]
    split
    · obtain ⟨acc', e⟩ := parseKind_acc cfg d st c acc
      rw [e]
      exact ih _ acc'
    · exact ih st acc

/-- PARSE's response does not depend on the register (R30). -/
theorem parseComposite_acc (cfg : Config) (m : Byte) (acc acc' : Word) (d : List Byte) :
    (parseComposite cfg m acc d).1 = (parseComposite cfg m acc' d).1 := by
  obtain ⟨acc'', e⟩ := parseFrom_acc cfg m d TKind.all (ParseState.start acc') acc
  exact (congrArg (parseResponse cfg m d) e).trans rfl

/-- A part of a step that writes the state without reading the register (R30). -/
def AccBlind (f : State → State) : Prop := ∀ s v, ∃ w, f (s.withAcc v) = (f s).withAcc w

theorem accBlind_completeRecord (k : Kind) (rx : List Byte) : AccBlind (State.completeRecord · k rx) := by
  intro s v
  simp only [State.completeRecord, withAcc_cfg, withAcc_crcAcc, decodeRecord_acc k v s.crcAcc]
  exact ⟨_, rfl⟩

theorem accBlind_completeMask (rx : List Byte) : AccBlind (State.completeMask · rx) := by
  intro s v
  simp only [State.completeMask, withAcc_cfg, withAcc_seqCtx, withAcc_crcAcc,
    parseComposite_acc s.cfg s.seqCtx.mask v s.crcAcc]
  exact ⟨_, rfl⟩

theorem accBlind_completeByte (rx : List Byte) : AccBlind (State.completeByte · rx) := fun _ v => ⟨v, rfl⟩

theorem accBlind_enterRead : AccBlind enterRead := by
  intro s v
  rw [enterRead, enterRead, withAcc_seqCtx]
  split
  · exact accBlind_completeMask [] s v
  · exact ⟨v, rfl⟩

/-- EXEC's issue step reads no register: it keeps it or computes a record's CRC (R205). -/
theorem accBlind_issueStep (c : Caller) (op : Byte) (tr : Transport) (d : List Byte) :
    AccBlind (issueStep c op tr d) := by
  intro s v
  unfold issueStep
  rw [withAcc_chOpen, withAcc_chLink, withAcc_cfg]
  split
  · exact ⟨v, rfl⟩
  split
  · exact ⟨v, rfl⟩
  cases entry s.cfg op with
  | none => exact ⟨v, rfl⟩
  | some cmd =>
    simp only
    split
    · exact ⟨v, rfl⟩
    split
    · exact ⟨v, rfl⟩
    · exact ⟨issueAcc cmd v d, rfl⟩

/-- A write phase transmits what does not depend on the register (R206). -/
theorem blind_transmit {tx : State → List Byte} {done : State → State} {s : State}
    (ht : ∀ v, tx (s.withAcc v) = tx s) (hd : AccBlind done) :
    BlindAt State.withAcc s (fun s => transmit s (tx s) done) := by
  intro v
  unfold transmit
  beta_reduce
  rw [ht, withAcc_inputs]
  split
  · exact ⟨v, rfl⟩
  split
  · exact ⟨v, rfl⟩
  · obtain ⟨w, e⟩ := hd (s.logTransfer (.tx s.seqCtx.t (tx s) s.inputs.txCount)) v
    exact ⟨w, congrArg Host.Outcome.next e⟩

theorem blind_receive {result : State → List Byte → State} (hr : ∀ rx, AccBlind (result · rx)) (s : State) :
    BlindAt State.withAcc s (receive · result) := by
  intro v
  unfold receive
  beta_reduce
  rw [withAcc_inputs, withAcc_seqCtx]
  split
  · exact ⟨v, rfl⟩
  simp only
  split
  · exact ⟨v, rfl⟩
  · obtain ⟨w, e⟩ := hr s.inputs.rx (s.logTransfer (readTransfer s)) v
    exact ⟨w, congrArg Host.Outcome.next e⟩

theorem blind_writeCommand {tx : State → List Byte} {done : State → State} {s : State}
    (ht : ∀ v, tx (s.withAcc v) = tx s) (hd : AccBlind done) :
    BlindAt State.withAcc s (fun s => writeCommand s (tx s) done) := by
  intro v
  simp only [writeCommand, withAcc_seqPhase]
  cases s.seqPhase with
  | write =>
    refine blind_transmit (done := fun s1 => (done s1).complete ⟨.ok, .none⟩) ht (fun s1 v1 => ?_) v
    obtain ⟨w, e⟩ := hd s1 v1
    exact ⟨w, congrArg (State.complete · ⟨.ok, .none⟩) e⟩
  | idle | read | reserved3 => exact ⟨v, rfl⟩

theorem blind_readCommand {tx : State → List Byte} {result : State → List Byte → State} {s : State}
    (ht : ∀ v, tx (s.withAcc v) = tx s) (hr : ∀ rx, AccBlind (result · rx)) :
    BlindAt State.withAcc s (fun s => readCommand s (tx s) result) := by
  intro v
  simp only [readCommand, withAcc_seqPhase]
  cases s.seqPhase with
  | write => exact blind_transmit ht accBlind_enterRead v
  | read => exact blind_receive hr s v
  | idle | reserved3 => exact ⟨v, rfl⟩

theorem blind_encode (c : Caller) (k : Kind) (d : List Byte) (s : State) :
    BlindAt State.withAcc s (execEncode c k d) := by
  intro v
  unfold execEncode
  rw [withAcc_cfg]
  split
  · exact ⟨v, rfl⟩
  · exact ⟨crcReg d, rfl⟩

theorem blind_build (c : Caller) (m : Byte) (s : State) : BlindAt State.withAcc s (exec (.build c m)) := by
  intro v
  have hb := buildFrom_acc s.cfg s.cnt s.inputs.src m TKind.all [] v s.crcAcc
  simp only [exec, execBuild, buildComposite, withAcc_cfg, withAcc_cnt, withAcc_inputs, withAcc_crcAcc]
  cases hs : buildFrom s.cfg s.cnt s.inputs.src m TKind.all [] s.crcAcc with
  | none =>
    rw [hs, Option.map_none, Option.map_eq_none_iff] at hb
    rw [hb]
    exact ⟨v, rfl⟩
  | some built =>
    rw [hs, Option.map_some, Option.map_eq_some_iff] at hb
    obtain ⟨⟨out, acc⟩, hv, rfl⟩ := hb
    rw [hv]
    exact ⟨acc, rfl⟩

/-- No instruction reads the register (R30): the codec, the multiplexer and the issue step overwrite it or keep it, and
DECODE and PARSE answer the same from any value of it. -/
theorem blind_exec (i : Instr) (s : State) : BlindAt State.withAcc s (exec i) := by
  cases i with
  | crc32 c d => exact fun _ => ⟨crcReg d, rfl⟩
  | encode c k d => exact blind_encode c k d s
  | decode c k d =>
    intro v
    simp only [exec, execDecode, withAcc_cfg, withAcc_crcAcc, decodeRecord_acc k v s.crcAcc]
    exact ⟨_, rfl⟩
  | classify | tick | illegalRequest => exact fun v => ⟨v, rfl⟩
  | build c m => exact blind_build c m s
  | parse c m d =>
    intro v
    simp only [exec, execParse, withAcc_cfg, withAcc_crcAcc, parseComposite_acc s.cfg m v s.crcAcc]
    exact ⟨_, rfl⟩
  | openChannel | closeChannel => exact blindAt_whenIdle hidden_withAcc fun v => ⟨v, rfl⟩
  | exec c op tr d => exact blindAt_whenIdle hidden_withAcc (accBlind_issueStep c op tr d s)
  | setDabP | setDabV | setTunerOptP | setTunerOptV | setProcOptP | setProcOptV | setTunerReg | setSerial
  | setPwsConfig | setDfuMode | setDfuBlock | setMask =>
    exact blind_writeCommand (fun _ => rfl) fun _ v => ⟨v, rfl⟩
  | getDabP | getDabV | getTunerOptP | getTunerOptV | getProcOptP | getProcOptV | getSerial | getPwsStatus
  | getVersion | getDfuMode | getDfuAck => exact blind_readCommand (fun _ => rfl) (accBlind_completeRecord _)
  | getMaskData => exact blind_readCommand (fun _ => rfl) accBlind_completeMask
  | getPing => exact blind_readCommand (fun _ => rfl) accBlind_completeByte
  | unassignedProtocolOpcode op req =>
    intro v
    simp only [exec, execUnassignedProtocolOpcode, withAcc_seqPhase]
    cases s.seqPhase with
    | write | idle | read | reserved3 => exact ⟨v, rfl⟩

/-- Settles O57: no fetch and no instruction reads the register. -/
theorem crcRegisterIsUnobservable : Obligations.CrcRegisterIsUnobservable := by
  intro s t v h
  obtain ⟨w, hw⟩ := blindAt_step hidden_withAcc (s := s) (fun i s1 _ => blind_exec i s1) v
  rw [h] at hw
  exact ⟨t.withAcc w, hw, rfl⟩

/-! ### The link of a closed channel (R26) -/

/-- The state with another link in `S.CH_LINK` (R26). -/
def State.withLink (s : State) (l : Link) : State := { s with chLink := l }

theorem hidden_withLink : Hidden State.withLink where
  cfg _ _ := rfl
  agenda _ _ := rfl
  inputs _ _ := rfl
  seqPhase _ _ := rfl
  seqCtx _ _ := rfl
  pendingOf _ _ _ := rfl
  setAgenda _ _ _ := rfl
  setInputs _ _ _ := rfl
  setPending _ _ _ _ := rfl
  takeReset s _ := ⟨s.takeReset.chLink, rfl⟩

/-- The fetch of a state with no transaction in flight runs a request's instruction, and leaves the channel as it is:
the transport's steps are taken in their own phases only (R206, R210). -/
theorem fetch_run_of_idle {s s1 : State} {i : Instr} (hp : s.seqPhase = .idle) (h : fetch s = .run i s1) :
    SameChannel s s1 ∧ ∃ c, i.asker = some c := by
  unfold fetch at h
  split at h
  · cases h
  · rename_i e rest _
    cases e with
    | issue | sample | reset => cases h
    | take c =>
      simp only [fetchEvent, fetchRequest] at h
      split at h
      · rename_i r _
        cases h
        exact ⟨⟨rfl, rfl, rfl, rfl, rfl, rfl⟩, r.caller, asker_decodeRequest _ r⟩
      · cases h
    | txPhase m => cases hp.symm.trans (fetchPhase_run h).1
    | rxPhase rx => cases hp.symm.trans (fetchPhase_run h).1

/-- EXEC answers CHANNEL_NOT_OPEN before it compares the link (R204). -/
theorem issueStep_closed {s : State} (h : s.chOpen = false) (c : Caller) (op : Byte) (tr : Transport) (d : List Byte) :
    issueStep c op tr d s = s.respond c ⟨.channelNotOpen, .none⟩ :=
  if_pos h

/-- No operation of the request port reads the link of a closed channel: OPEN overwrites it, the others keep it (R26). -/
theorem blind_exec_closed {i : Instr} {s : State} {c : Caller} (hi : i.asker = some c) (hopen : s.chOpen = false) :
    BlindAt State.withLink s (exec i) := by
  cases i with
  | crc32 | decode | classify | tick | parse | illegalRequest => exact fun l => ⟨l, rfl⟩
  | encode c k d =>
    intro l
    refine ⟨l, ?_⟩
    simp only [exec]
    unfold execEncode
    rw [hidden_withLink.cfg]
    split <;> rfl
  | build c m =>
    intro l
    simp only [exec, execBuild]
    rw [show buildComposite (s.withLink l).cfg (s.withLink l).cnt (s.withLink l).inputs.src m (s.withLink l).crcAcc
      = buildComposite s.cfg s.cnt s.inputs.src m s.crcAcc from rfl]
    cases buildComposite s.cfg s.cnt s.inputs.src m s.crcAcc with
    | none | some _ => exact ⟨l, rfl⟩
  | openChannel c l => exact blindAt_whenIdle hidden_withLink fun _ => ⟨l, rfl⟩
  | closeChannel => exact blindAt_whenIdle hidden_withLink fun l => ⟨l, rfl⟩
  | exec c op tr d =>
    refine blindAt_whenIdle hidden_withLink fun l => ⟨l, ?_⟩
    rw [issueStep_closed hopen, issueStep_closed (s := s.withLink l) hopen]
    rfl
  | _ => cases hi

/-- Settles O58: with no transaction in flight the step runs a request's operation or none. -/
theorem closedLinkIsUnobservable : Obligations.ClosedLinkIsUnobservable := by
  intro s t l hopen hp h
  have hexec : ∀ i s1, fetch s = .run i s1 → BlindAt State.withLink s1 (exec i) := fun i s1 hf => by
    obtain ⟨hch, c, hc⟩ := fetch_run_of_idle hp hf
    exact blind_exec_closed hc (hch.chOpen.trans hopen)
  obtain ⟨l', hl⟩ := blindAt_step hidden_withLink hexec l
  rw [h] at hl
  exact ⟨t.withLink l', hl, rfl⟩

end Sys2Proof.Machine

/-! ## The access rules' statements (20_memory.md): a transaction runs alone (O51), and a step runs the instruction its
bytes decode to (O40) -/

namespace Sys2Proof.Machine

/-! ### A transaction in flight (R62, R218) -/

/-- The transaction in flight in `s` is still in flight in `t`, over the channel and the mask shadow it was issued with;
at most its read phase began (R62, R208, R218). -/
def TransactionGoesOn (s t : State) : Prop :=
  t.seqCtx = s.seqCtx ∧ t.chOpen = s.chOpen ∧ t.chLink = s.chLink ∧ t.maskShadow = s.maskShadow
    ∧ (t.seqPhase = s.seqPhase ∨ (s.seqPhase = .write ∧ t.seqPhase = .read))

theorem TransactionGoesOn.ne_idle {s t : State} (h : TransactionGoesOn s t) (hp : s.seqPhase ≠ .idle) :
    t.seqPhase ≠ .idle := by
  obtain ⟨-, -, -, -, e | ⟨-, e⟩⟩ := h
  · exact e.trans_ne hp
  · simp [e]

theorem transactionGoesOn_of_sameChannel {s t : State} (h : SameChannel s t) : TransactionGoesOn s t :=
  ⟨h.seqCtx, h.chOpen, h.chLink, h.maskShadow, .inl h.seqPhase⟩

/-- An instruction run while a transaction is in flight lets it go on, or ends it by its owner's response: EXEC, OPEN
and CLOSE have an effect in the phase IDLE only (R62). -/
theorem effect_in_flight {i : Instr} {s t : State} (he : Effect i s t) (hp : s.seqPhase ≠ .idle) :
    TransactionGoesOn s t ∨ (t.seqPhase = .idle ∧ ∃ r, t.responses = (s.seqCtx.owner, r) :: s.responses) := by
  cases he with
  | opens _ _ hidle | closes _ hidle | issues _ _ _ _ _ hidle => exact absurd hidle hp
  | answers | ticks | refuses | holds =>
    exact .inl (transactionGoesOn_of_sameChannel ⟨rfl, rfl, rfl, rfl, rfl, rfl⟩)
  | enters _ _ _ _ hw => exact .inl ⟨rfl, rfl, rfl, rfl, .inr ⟨hw, rfl⟩⟩
  | short | masks | finishes | rejects => exact .inr ⟨rfl, _, rfl⟩

/-- A step taken while a transaction is in flight lets it go on, or ends it, by RESET or by its owner's response
(R218). -/
theorem stepCase_in_flight {s t : State} (hc : StepCase s t) (hp : s.seqPhase ≠ .idle) :
    TransactionGoesOn s t
      ∨ (t.seqPhase = .idle
          ∧ ((∃ rest, s.agenda = .reset :: rest) ∨ ∃ r, t.responses = (s.seqCtx.owner, r) :: s.responses)) := by
  cases hc with
  | waits | issue | sample | skips => exact .inl (transactionGoesOn_of_sameChannel (by constructor <;> simp))
  | reset rest ha => exact .inr ⟨rfl, .inl ⟨rest, ha⟩⟩
  | runs _ _ _ _ _ he | writes _ _ _ _ _ _ _ he | reads _ _ _ _ _ _ _ he =>
    exact (effect_in_flight he hp).imp_right (And.imp_right .inr)

/-- Settles O51: of the two outcomes of `stepCase_in_flight` the phase after the step tells which one it was. -/
theorem transactionRunsAlone : Obligations.TransactionRunsAlone := by
  intro s t _ hs hp
  obtain hgo | ⟨hidle, hend⟩ := stepCase_in_flight (step_cases hs) hp
  · exact ⟨fun _ => hgo, fun hidle => absurd hidle (hgo.ne_idle hp)⟩
  · exact ⟨absurd hidle, fun _ => hend⟩

/-! ### The instruction of a step (R59, R206, R210) -/

/-- A step that fetches an instruction runs it. -/
theorem step_of_run {s s1 : State} {i : Instr} (hw : s.cfg.wf = true) (h : fetch s = .run i s1) :
    step s = exec i s1 := by
  rw [step_eq hw, h]

/-- The head of the agenda asks, with its entry taken off (log 5). -/
theorem fetch_cons {s : State} {e : Event} {rest : List Event} (ha : s.agenda = e :: rest) :
    fetch s = fetchEvent { s with agenda := rest } e := by
  rw [fetch, ha]

/-- A caller's step fetches what its pending request spells (R59). -/
theorem fetchRequest_of_pending {s : State} {c : Caller} {r : Request} (h : s.pendingOf c = some r) :
    fetchRequest s c = .run (decodeRequest s.cfg r) s := by
  rw [fetchRequest, h]

/-- The transport's step in its own phase fetches what the write-phase bytes spell (R206, R210). -/
theorem fetchPhase_of_decodeWire {s s1 : State} {p : SeqPhase} {i : Instr} (hp : s.seqPhase = p)
    (hne : p ≠ .reserved3) (hi : decodeWire s1.cfg s1.seqCtx.tx = .ok i) : fetchPhase s p s1 = .run i s1 := by
  rw [fetchPhase, if_neg (hp.trans_ne hne), if_pos hp, fetchWire, hi]

/-- The bytes of a request decode to what the request spells (log 1). -/
theorem decodeBytes_bytesOfRequest (cfg : Config) (r : Request) :
    decodeBytes cfg .request (bytesOfRequest r) = .ok (decodeRequest cfg r) := by
  simp only [decodeBytes, requestOfBytes_bytesOfRequest]

/-- Settles O40: the agenda's head fetches the instruction the bytes decode to, and the step runs what is fetched. -/
theorem stepRunsTheDecodedInstruction : Obligations.StepRunsTheDecodedInstruction := by
  intro s i rest hw
  refine ⟨fun c r ha hr hi => ?_, fun m ha hp hi => ?_, fun rx ha hp hi => ?_⟩
  · rw [decodeBytes_bytesOfRequest] at hi
    cases hi
    exact step_of_run hw ((fetch_cons ha).trans (fetchRequest_of_pending hr))
  · exact step_of_run hw ((fetch_cons ha).trans (fetchPhase_of_decodeWire hp (by decide) hi))
  · exact step_of_run hw ((fetch_cons ha).trans (fetchPhase_of_decodeWire hp (by decide) hi))

end Sys2Proof.Machine

/-! ## The encoding's statements (30_encoding.md): decode and encode agree (O46, O47, O45), the illegal requests (O39),
the opcode class (O8) and the unassigned opcodes (O38) -/

namespace Sys2Proof.Machine

variable {cfg : Config}

/-! ### The requests that spell an operation (R86) -/

/-- The table of R86: the selector, the fields A, B and D of a caller's request, and the operation they spell. -/
inductive Spells (c : Caller) : OpSel → Byte → Byte → List Byte → Instr → Prop where
  | crc32 (d : List Byte) : Spells c .crc32 0#8 0#8 d (.crc32 c d)
  | encode (k : Kind) (d : List Byte) : Spells c .encode k.id 0#8 d (.encode c k d)
  | decode (k : Kind) (d : List Byte) : Spells c .decode k.id 0#8 d (.decode c k d)
  | classify (op : Byte) (t : Transport) : Spells c .classify op t.id [] (.classify c op t)
  | tick (k : TKind) : Spells c .tick k.id 0#8 [] (.tick c k)
  | build (m : Byte) : Spells c .build m 0#8 [] (.build c m)
  | parse (m : Byte) (d : List Byte) : Spells c .parse m 0#8 d (.parse c m d)
  | openChannel (l : Link) : Spells c .openChannel l.id 0#8 [] (.openChannel c l)
  | closeChannel : Spells c .closeChannel 0#8 0#8 [] (.closeChannel c)
  | exec (op : Byte) (t : Transport) (d : List Byte) : Spells c .exec op t.id d (.exec c op t d)

section Spells

variable {c : Caller} {o : OpSel} {a b : Byte} {d : List Byte} {i : Instr}

/-- The encoder lays out the request that spells the operation (log 1). -/
theorem Spells.encodeInstr_eq (h : Spells c o a b d i) : encodeInstr cfg i = bytesOfRequest (requestOf o c a b d) := by
  cases h <;> rfl

/-- An operation is no illegal request. -/
theorem Spells.ne_illegalRequest (h : Spells c o a b d i) (why : IllegalReason) (r : Request) :
    i ≠ .illegalRequest why r := by
  cases h <;> exact nofun

/-- The fields that spell an operation decode to it (R86). -/
theorem Spells.decodeFields_eq (h : Spells c o a b d i) : decodeFields o (requestOf o c a b d) = i := by
  cases h with
  | crc32 | build | parse | closeChannel => rfl
  | encode | decode | classify | tick | openChannel | exec => simp [decodeFields, requestOf]

/-- No field of a request that spells an operation is at fault (R90). -/
theorem Spells.not_at_fault (h : Spells c o a b d i) : faultA o a = none ∧ faultB o b = none ∧ faultD o d = none := by
  cases h with
  | crc32 | build | parse | closeChannel => exact ⟨rfl, rfl, rfl⟩
  | encode | decode | tick | openChannel => exact ⟨by simp [faultA], rfl, rfl⟩
  | classify | exec => exact ⟨rfl, by simp [faultB, transport_id_high], rfl⟩

/-- The form of most lines of R90: a field is not at fault exactly where it meets its condition. -/
theorem ite_none_some_eq_none_iff {p : Prop} {_ : Decidable p} {why : IllegalReason} :
    (if p then none else some why) = none ↔ p := by
  simp

/-- The field B of CLASSIFY and EXEC is not at fault where it is a transport id: bits 7..2 are then zero (R86, R88). -/
theorem faultB_transport (ho : o = .classify ∨ o = .exec) : faultB o b = none ↔ (Transport.ofId b).isSome = true := by
  have hrow : faultB o b = if b.extractLsb' 2 6 ≠ 0#6 then some .fieldB
      else if (Transport.ofId b).isSome then none else some .transportId := by
    obtain rfl | rfl := ho <;> rfl
  rw [hrow]
  cases ht : Transport.ofId b with
  | none => by_cases hhigh : b.extractLsb' 2 6 = 0#6 <;> simp [hhigh]
  | some t => simp [← Transport.id_of_ofId ht, transport_id_high]

/-- A byte that is looked up as an id is the id of what is found (R87, R88). -/
theorem exists_id_of_isSome {α : Type} {ofId : Byte → Option α} {id : α → Byte}
    (hid : ∀ {b x}, ofId b = some x → id x = b) (h : (ofId b).isSome = true) : ∃ x, b = id x :=
  (Option.isSome_iff_exists.mp h).imp fun _ e => (hid e).symm

/-- Fields that are not at fault spell an operation: each is an operand's byte, zero, or empty (R86). -/
theorem exists_spells (c : Caller) (ha : faultA o a = none) (hb : faultB o b = none) (hd : faultD o d = none) :
    ∃ i, Spells c o a b d i := by
  cases o with
  | crc32 =>
    obtain rfl := ite_none_some_eq_none_iff.mp ha
    obtain rfl := ite_none_some_eq_none_iff.mp hb
    exact ⟨_, .crc32 d⟩
  | encode =>
    obtain ⟨k, rfl⟩ := exists_id_of_isSome Kind.id_of_ofId (ite_none_some_eq_none_iff.mp ha)
    obtain rfl := ite_none_some_eq_none_iff.mp hb
    exact ⟨_, .encode k d⟩
  | decode =>
    obtain ⟨k, rfl⟩ := exists_id_of_isSome Kind.id_of_ofId (ite_none_some_eq_none_iff.mp ha)
    obtain rfl := ite_none_some_eq_none_iff.mp hb
    exact ⟨_, .decode k d⟩
  | classify =>
    obtain ⟨t, rfl⟩ := exists_id_of_isSome Transport.id_of_ofId ((faultB_transport (.inl rfl)).mp hb)
    obtain rfl := ite_none_some_eq_none_iff.mp hd
    exact ⟨_, .classify a t⟩
  | tick =>
    obtain ⟨k, rfl⟩ := exists_id_of_isSome TKind.id_of_ofId (ite_none_some_eq_none_iff.mp ha)
    obtain rfl := ite_none_some_eq_none_iff.mp hb
    obtain rfl := ite_none_some_eq_none_iff.mp hd
    exact ⟨_, .tick k⟩
  | build =>
    obtain rfl := ite_none_some_eq_none_iff.mp hb
    obtain rfl := ite_none_some_eq_none_iff.mp hd
    exact ⟨_, .build a⟩
  | parse =>
    obtain rfl := ite_none_some_eq_none_iff.mp hb
    exact ⟨_, .parse a d⟩
  | openChannel =>
    obtain ⟨l, rfl⟩ := exists_id_of_isSome Link.id_of_ofId (ite_none_some_eq_none_iff.mp ha)
    obtain rfl := ite_none_some_eq_none_iff.mp hb
    obtain rfl := ite_none_some_eq_none_iff.mp hd
    exact ⟨_, .openChannel l⟩
  | closeChannel =>
    obtain rfl := ite_none_some_eq_none_iff.mp ha
    obtain rfl := ite_none_some_eq_none_iff.mp hb
    obtain rfl := ite_none_some_eq_none_iff.mp hd
    exact ⟨_, .closeChannel⟩
  | exec =>
    obtain ⟨t, rfl⟩ := exists_id_of_isSome Transport.id_of_ofId ((faultB_transport (.inr rfl)).mp hb)
    exact ⟨_, .exec a t d⟩

end Spells

/-! ### The decoder of requests (R86, R90) -/

/-- The selector byte of each operation is looked up (R86). -/
theorem ofOpc_opc (o : OpSel) : OpSel.ofOpc o.opc = some o := by cases o <;> rfl

/-- A legal request: its caller is one of the block's, its selector an operation's, and no field is at fault (R90). -/
theorem requestFault_eq_none_iff {r : Request} :
    requestFault cfg r = none ↔ callerOk cfg r.caller = true
      ∧ ∃ o, OpSel.ofOpc r.opc = some o ∧ faultA o r.a = none ∧ faultB o r.b = none ∧ faultD o r.d = none := by
  unfold requestFault
  cases callerOk cfg r.caller <;> cases OpSel.ofOpc r.opc <;> simp

/-- An illegal request is decoded with its reason (R90). -/
theorem decodeRequest_of_fault {r : Request} {why : IllegalReason} (h : requestFault cfg r = some why) :
    decodeRequest cfg r = .illegalRequest why r := by
  rw [decodeRequest, h]

/-- From one of the block's callers the request of an operation decodes to it (R86). -/
theorem decodeRequest_of_spells {c : Caller} {o : OpSel} {a b : Byte} {d : List Byte} {i : Instr}
    (hc : callerOk cfg c = true) (h : Spells c o a b d i) : decodeRequest cfg (requestOf o c a b d) = i := by
  have hlegal : requestFault cfg (requestOf o c a b d) = none :=
    requestFault_eq_none_iff.mpr ⟨hc, o, ofOpc_opc o, h.not_at_fault⟩
  rw [decodeRequest, hlegal]
  simp only [requestOf, ofOpc_opc]
  exact h.decodeFields_eq

/-- A legal request is the request of the operation it decodes to (R86). -/
theorem spells_of_legal {r : Request} (h : requestFault cfg r = none) :
    ∃ o, requestOf o r.caller r.a r.b r.d = r ∧ Spells r.caller o r.a r.b r.d (decodeRequest cfg r) := by
  obtain ⟨hc, o, ho, ha, hb, hd⟩ := requestFault_eq_none_iff.mp h
  obtain ⟨i, hi⟩ := exists_spells r.caller ha hb hd
  have hr : requestOf o r.caller r.a r.b r.d = r := by rw [requestOf, opc_of_ofOpc ho]
  have hdec := decodeRequest_of_spells hc hi
  rw [hr] at hdec
  exact ⟨o, hr, hdec ▸ hi⟩

/-- The encoder gives back the bytes of the request that was decoded, legal or not (R86, R90, log 1). -/
theorem encodeInstr_decodeRequest (cfg : Config) (r : Request) :
    encodeInstr cfg (decodeRequest cfg r) = bytesOfRequest r := by
  cases h : requestFault cfg r with
  | none =>
    obtain ⟨o, hr, hs⟩ := spells_of_legal h
    exact hs.encodeInstr_eq.trans (congrArg bytesOfRequest hr)
  | some why =>
    rw [decodeRequest_of_fault h]
    rfl

/-! ### The space of an instruction (R3) -/

/-- The instructions of the request port are those that ask for a caller (R3, R85). -/
theorem space_eq_request_iff (i : Instr) : i.space = .request ↔ i.asker.isSome = true := by
  cases i <;> simp [Instr.space, Instr.asker]

/-- A request decodes to an instruction of the request port. -/
theorem space_decodeRequest (cfg : Config) (r : Request) : (decodeRequest cfg r).space = .request := by
  rw [space_eq_request_iff, asker_decodeRequest]
  rfl

/-! ### The write-phase bytes of a command (R81, R83) -/

/-- A command's opcode byte selects it (R131, R8 WF4). -/
theorem decodeWire_op (hw : cfg.wf = true) (cmd : Command) (req : List Byte) :
    decodeWire cfg (cfg.op cmd :: req) = commandInstr cfg cmd req := by
  simp only [decodeWire, entry_op hw]

/-- The bytes of a write command with a record of its kind decode to it (R81). -/
theorem decodeWire_wireRecord (hw : cfg.wf = true) {cmd : Command} {k : Kind} {body : List Byte} {trailer : Word}
    {mk : List Byte → Word → Instr} (hr : recordOk cfg k body trailer = true)
    (hmk : ∀ req, commandInstr cfg cmd req = recordInstr cfg k req mk) :
    decodeWire cfg (wireRecord cfg cmd body trailer) = .ok (mk body trailer) := by
  simp only [recordOk, Bool.and_eq_true, beq_iff_eq] at hr
  rw [wireRecord, decodeWire_op hw, hmk, recordInstr_append hr.1]

/-- Where a request's record decodes, the write command's bytes are the opcode and that record (R81). -/
theorem encodeInstr_of_recordInstr (hw : cfg.wf = true) {cmd : Command} {k : Kind} {req : List Byte}
    {mk : List Byte → Word → Instr} {i : Instr} (h : recordInstr cfg k req mk = .ok i)
    (hmk : ∀ body trailer, encodeInstr cfg (mk body trailer) = wireRecord cfg cmd body trailer) :
    encodeInstr cfg i = cfg.op cmd :: req := by
  obtain ⟨body, trailer, rfl, rfl, -⟩ := recordInstr_ok hw h
  exact hmk body trailer

/-- A read's instruction comes from the opcode byte alone (R81). -/
theorem readInstr_eq_ok_iff {req : List Byte} {i j : Instr} : readInstr req j = .ok i ↔ req = [] ∧ j = i := by
  cases req <;> simp [readInstr]

/-- SET_MASK's instruction comes from one byte (R80). -/
theorem maskInstr_eq_ok_iff {req : List Byte} {i : Instr} :
    maskInstr req = .ok i ↔ ∃ m, req = [m] ∧ i = .setMask m := by
  unfold maskInstr
  split <;> simp_all [eq_comm]

/-- The bytes after a command's opcode that decode are those the encoder writes there (R81, R83). -/
theorem encodeInstr_of_commandInstr (hw : cfg.wf = true) {cmd : Command} {req : List Byte} {i : Instr}
    (h : commandInstr cfg cmd req = .ok i) : encodeInstr cfg i = cfg.op cmd :: req := by
  cases cmd with
  | setDabP | setDabV | setTunerOptP | setTunerOptV | setProcOptP | setProcOptV | setTunerReg | setSerial
  | setPwsConfig | setDfuMode | setDfuBlock => exact encodeInstr_of_recordInstr hw h fun _ _ => rfl
  | setMask =>
    obtain ⟨m, rfl, rfl⟩ := maskInstr_eq_ok_iff.mp h
    rfl
  | getDabP | getDabV | getTunerOptP | getTunerOptV | getProcOptP | getProcOptV | getSerial | getPwsStatus
  | getVersion | getDfuMode | getDfuAck | getMaskData | getPing =>
    obtain ⟨rfl, rfl⟩ := readInstr_eq_ok_iff.mp h
    rfl

/-- Write-phase bytes that decode are the bytes of their instruction (R81, R83, R91). -/
theorem encodeInstr_of_decodeWire (hw : cfg.wf = true) {bs : List Byte} {i : Instr} (h : decodeWire cfg bs = .ok i) :
    encodeInstr cfg i = bs := by
  cases bs with
  | nil => cases h
  | cons op req =>
    simp only [decodeWire] at h
    cases he : entry cfg op with
    | some cmd =>
      rw [he] at h
      rw [encodeInstr_of_commandInstr hw h, op_of_entry he]
    | none =>
      rw [he] at h
      cases h
      rfl

/-- Write-phase bytes decode to a protocol instruction. -/
theorem space_of_decodeWire {bs : List Byte} {i : Instr} (h : decodeWire cfg bs = .ok i) : i.space = .protocol := by
  have hne : i.space ≠ .request := by simp [space_eq_request_iff, asker_decodeWire h]
  cases hs : i.space with
  | request => exact absurd hs hne
  | protocol => rfl

/-! ### Decode and encode agree -/

/-- The bytes of an operation of the request port decode to it (R86). -/
theorem decodeBytes_of_spells {c : Caller} {o : OpSel} {a b : Byte} {d : List Byte} {i : Instr}
    (hc : callerOk cfg c = true) (h : Spells c o a b d i) : decodeBytes cfg .request (encodeInstr cfg i) = .ok i := by
  rw [h.encodeInstr_eq, decodeBytes_bytesOfRequest, decodeRequest_of_spells hc h]

/-- Settles O46: an operation by the request that spells it, an illegal request by its reason, a command by its opcode
and the bytes the opcode implies, an unassigned opcode by the lookup that finds no entry. -/
theorem decodeOfEncodeIsTheInstruction : Obligations.DecodeOfEncodeIsTheInstruction := by
  intro cfg i hw hi
  cases i with
  | crc32 c | encode c | decode c | classify c | tick c | build c | parse c | openChannel c | closeChannel c | exec c =>
    exact decodeBytes_of_spells (c := c) hi (by constructor)
  | illegalRequest why r =>
    have hf : requestFault cfg r = some why := by simpa [Instr.wf] using hi
    exact (decodeBytes_bytesOfRequest cfg r).trans (congrArg Except.ok (decodeRequest_of_fault hf))
  | setDabP | setDabV | setTunerOptP | setTunerOptV | setProcOptP | setProcOptV | setTunerReg | setSerial
  | setPwsConfig | setDfuMode | setDfuBlock => exact decodeWire_wireRecord hw hi fun _ => rfl
  | setMask | getDabP | getDabV | getTunerOptP | getTunerOptV | getProcOptP | getProcOptV | getSerial | getPwsStatus
  | getVersion | getDfuMode | getDfuAck | getMaskData | getPing => exact decodeWire_op hw _ _
  | unassignedProtocolOpcode op req =>
    have he : entry cfg op = none := by simpa [Instr.wf] using hi
    simp only [Instr.space, encodeInstr, decodeBytes, decodeWire, he]

/-- Settles O47: in the request space the layout of the tuple is inverted and the decoder ignores none of its fields, in
the protocol space the opcode is its entry's and the bytes after it are those the entry implies. -/
theorem encodeOfDecodeIsTheBytes : Obligations.EncodeOfDecodeIsTheBytes := by
  intro cfg sp bs i hw h
  cases sp with
  | protocol => exact ⟨encodeInstr_of_decodeWire hw h, space_of_decodeWire h⟩
  | request =>
    simp only [decodeBytes] at h
    cases hr : requestOfBytes bs with
    | error e =>
      rw [hr] at h
      cases h
    | ok r =>
      rw [hr] at h
      cases h
      exact ⟨(encodeInstr_decodeRequest cfg r).trans (bytesOfRequest_of_requestOfBytes hr), space_decodeRequest cfg r⟩

/-- Settles O45: the decoder evaluated on each word. -/
theorem writtenWordsDecode : Obligations.WrittenWordsDecode :=
  ⟨rfl, rfl, rfl, rfl, rfl⟩

/-! ### The illegal requests (R90) -/

/-- The record kinds have the ids 0 to 18 (R87). -/
theorem kind_isSome_iff (b : Byte) : (Kind.ofId b).isSome = true ↔ b.toNat ≤ 18 := by
  simp [Kind.ofId, Kind.all, Nat.lt_succ_iff]

/-- The telemetry kinds have the ids 0 to 7 (R170). -/
theorem tkind_isSome_iff (b : Byte) : (TKind.ofId b).isSome = true ↔ b.toNat ≤ 7 := by
  simp [TKind.ofId, TKind.all, Nat.lt_succ_iff]

/-- The transports have the ids 0 to 2 (R88). -/
theorem transport_isSome_iff (b : Byte) : (Transport.ofId b).isSome = true ↔ b.toNat ≤ 2 := by
  revert b; decide

/-- The links have the ids 0 and 1 (R88). -/
theorem link_isSome_iff (b : Byte) : (Link.ofId b).isSome = true ↔ b.toNat ≤ 1 := by
  revert b; decide

/-- The selectors are 0x01 to 0x0A (R86, R90). -/
theorem ofOpc_eq_none_iff (b : Byte) : OpSel.ofOpc b = none ↔ b = 0x00#8 ∨ 0x0A < b.toNat := by
  by_cases hb : b = 0x00#8
  · simp [OpSel.ofOpc, hb]
  · have hpos : b.toNat ≠ 0 := fun h => hb (BitVec.eq_of_toNat_eq h)
    have hlen : OpSel.all.length = 10 := rfl
    rw [OpSel.ofOpc, if_neg hb, List.getElem?_eq_none_iff, hlen, or_iff_right hb]
    omega

/-- The selectors' range (R86). -/
theorem opc_range (o : OpSel) : ¬ (o.opc = 0x00#8 ∨ 0x0A < o.opc.toNat) := by
  cases o <;> decide

/-- R90's lines about the field A. -/
theorem faultA_ne_none_iff (o : OpSel) (a : Byte) :
    faultA o a ≠ none ↔ ((o.opc = 0x02#8 ∨ o.opc = 0x03#8) ∧ 18 < a.toNat) ∨ (o.opc = 0x05#8 ∧ 7 < a.toNat)
      ∨ (o.opc = 0x08#8 ∧ 1 < a.toNat) ∨ ((o.opc = 0x01#8 ∨ o.opc = 0x09#8) ∧ a ≠ 0#8) := by
  cases o <;> simp [faultA, OpSel.opc, kind_isSome_iff, tkind_isSome_iff, link_isSome_iff]

/-- R90's lines about the field B. -/
theorem faultB_ne_none_iff (o : OpSel) (b : Byte) :
    faultB o b ≠ none ↔ ((o.opc = 0x04#8 ∨ o.opc = 0x0A#8) ∧ 2 < b.toNat)
      ∨ (o.opc ≠ 0x04#8 ∧ o.opc ≠ 0x0A#8 ∧ b ≠ 0#8) := by
  cases o with
  | classify | exec => simp [faultB_transport, transport_isSome_iff, OpSel.opc]
  | crc32 | encode | decode | tick | build | parse | openChannel | closeChannel => simp [faultB, OpSel.opc]

/-- R90's line about the field D. -/
theorem faultD_ne_none_iff (o : OpSel) (d : List Byte) :
    faultD o d ≠ none ↔ (o.opc = 0x04#8 ∨ o.opc = 0x05#8 ∨ o.opc = 0x06#8 ∨ o.opc = 0x08#8 ∨ o.opc = 0x09#8)
      ∧ d ≠ [] := by
  cases o <;> simp [faultD, OpSel.opc]

/-- A request of the block's callers with an operation's selector is at fault in one of its fields (R90). -/
theorem requestFault_ne_none_iff {r : Request} {o : OpSel} (hc : callerOk cfg r.caller = true)
    (ho : OpSel.ofOpc r.opc = some o) :
    requestFault cfg r ≠ none ↔ faultA o r.a ≠ none ∨ faultB o r.b ≠ none ∨ faultD o r.d ≠ none := by
  simp only [Ne, requestFault_eq_none_iff, hc, ho, Option.some.injEq, exists_eq_left', true_and]
  tauto

/-- The requests that decode as illegal are those with a fault (R90). -/
theorem decodeRequest_illegal_iff {r : Request} :
    (∃ why, decodeRequest cfg r = .illegalRequest why r) ↔ requestFault cfg r ≠ none := by
  cases h : requestFault cfg r with
  | none =>
    obtain ⟨o, -, hs⟩ := spells_of_legal h
    simp [hs.ne_illegalRequest]
  | some why => simp [decodeRequest_of_fault h]

/-- A refusal changes PENDING at the caller's slot and the run's flag, nothing else (R247, log 8). -/
theorem onlyRefuses_refuseRequest (s : State) (c : Caller) : OnlyRefuses c s (s.refuseRequest c) where
  responses := rfl
  own := State.pendingOf_setPending_self s c none
  others _ hne := State.pendingOf_setPending_ne s none hne
  flag := rfl
  channel := ⟨rfl, rfl, rfl, rfl, rfl, rfl⟩
  cnt := rfl
  wire := rfl
  crcAcc := rfl
  cfg := rfl
  agenda := rfl
  inputs := rfl
  freeIdx := rfl

/-- Settles O39: the requests that decode as illegal are those with a fault, and R90's list is read off from the
caller, the selector's range and the three fields' lines. -/
theorem illegalRequestsAreRefused : Obligations.IllegalRequestsAreRefused := by
  intro r s
  refine ⟨?_, fun _ => ⟨_, rfl, onlyRefuses_refuseRequest s r.caller⟩⟩
  rw [decodeRequest_illegal_iff]
  by_cases hn : s.cfg.nCallers ≤ r.caller.toNat
  · have hc : callerOk s.cfg r.caller = false := by simpa [callerOk] using hn
    simp [hn, requestFault_eq_none_iff, hc]
  have hc : callerOk s.cfg r.caller = true := by simpa [callerOk] using hn
  cases ho : OpSel.ofOpc r.opc with
  | none =>
    have hf : requestFault s.cfg r ≠ none := by simp [requestFault_eq_none_iff, ho]
    refine iff_of_true ?_ hf
    rw [← or_assoc (a := r.opc = 0x00#8)]
    exact .inr (.inl ((ofOpc_eq_none_iff r.opc).mp ho))
  | some o =>
    have hrange := opc_range o
    rw [opc_of_ofOpc ho, not_or] at hrange
    rw [requestFault_ne_none_iff hc ho, faultA_ne_none_iff, faultB_ne_none_iff, faultD_ne_none_iff, opc_of_ofOpc ho]
    simp only [hn, hrange, false_or]
    exact iff_of_eq (by ac_rfl)

/-! ### The opcode class (R71) -/

/-- The class of an opcode by its two high bits is the class by its range (R71). -/
theorem opClass_eq (op : Byte) :
    opClass op = if op.toNat < 0x80 then .write else if op.toNat < 0xC0 then .rread else .svread := by
  have h7 : op.getLsbD 7 = true ↔ ¬ op.toNat < 0x80 := by
    simp only [BitVec.getLsbD, Nat.testBit_eq_decide_div_mod_eq, decide_eq_true_eq]
    omega
  have h6 : op.getLsbD 6 = true ↔ op.toNat / 0x40 % 2 = 1 := by
    simp only [BitVec.getLsbD, Nat.testBit_eq_decide_div_mod_eq, decide_eq_true_eq]
  unfold opClass
  by_cases hw : op.toNat < 0x80
  · rw [if_neg (h7.not.mpr (not_not.mpr hw)), if_pos hw]
  · rw [if_pos (h7.mpr hw), if_neg hw]
    by_cases hr : op.toNat < 0xC0
    · rw [if_neg (h6.not.mpr (by omega)), if_pos hr]
    · rw [if_pos (h6.mpr (by omega)), if_neg hr]

/-- Settles O8: each range picks its branch of `opClass_eq`. -/
theorem opcodeClassByRange : Obligations.OpcodeClassByRange := by
  intro op
  rw [opClass_eq]
  refine ⟨fun hw => ?_, fun hw hr => ?_, fun hs => ?_⟩
  · simp [hw, OpClass.code]
  · simp [not_lt.mpr hw, hr, OpClass.code]
  · have hw : ¬ op.toNat < 0x80 := by omega
    simp [hw, not_lt.mpr hs, OpClass.code]

/-! ### The unassigned opcodes (R91) -/

/-- A channel operation takes its step while the channel is idle (R62). -/
theorem whenIdle_of_idle {s : State} (go : State) (h : s.seqPhase = .idle) : whenIdle s go = .next go := by
  simp only [whenIdle, h]

/-- EXEC of an opcode no entry takes answers UNSUPPORTED_ON_TRANSPORT, on either link (R91, R204). -/
theorem issueStep_unassigned {s : State} {op : Byte} (he : entry s.cfg op = none) (hopen : s.chOpen = true)
    (c : Caller) (tr : Transport) (d : List Byte) :
    issueStep c op tr d s = s.respond c ⟨.unsupportedOnTransport, .unsupported op tr⟩ := by
  unfold issueStep
  rw [if_neg (by simp [hopen]), he]
  exact ite_self _

/-- A response goes to its caller, and of PENDING that caller's request leaves (R10, R31). -/
theorem answered_respond (s : State) (c : Caller) (r : Response) : Answered c r s (s.respond c r) where
  responses := rfl
  own := State.pendingOf_respond_self s c r
  others _ hne := State.pendingOf_respond_ne s r hne

/-- A response changes nothing else (R10). -/
theorem onlyAnswers_respond (s : State) (c : Caller) (r : Response) : OnlyAnswers c r s.crcAcc s (s.respond c r) where
  answered := answered_respond s c r
  channel := ⟨rfl, rfl, rfl, rfl, rfl, rfl⟩
  cnt := rfl
  wire := rfl
  crcAcc := rfl
  run := ⟨rfl, rfl, rfl, rfl, rfl⟩

/-- The end of a transaction answers its owner and leaves the channel idle (R206, R207, R210). -/
theorem ends_complete (s : State) (r : Response) : Ends r s (s.complete r) where
  answered :=
    have h := answered_respond { s with seqPhase := .idle } s.seqCtx.owner r
    ⟨h.responses, h.own, h.others⟩
  idle := rfl
  chOpen := rfl
  chLink := rfl
  seqCtx := rfl
  cnt := rfl
  run := ⟨rfl, rfl, rfl, rfl, rfl⟩

/-- An unassigned opcode in a write phase ends its transaction with UNSUPPORTED_ON_TRANSPORT (R91, log 16). -/
theorem exec_unassigned_of_write {s : State} (h : s.seqPhase = .write) (op : Byte) (req : List Byte) :
    exec (.unassignedProtocolOpcode op req) s
      = .next (s.complete ⟨.unsupportedOnTransport, .unsupported op s.seqCtx.t⟩) := by
  simp only [exec, execUnassignedProtocolOpcode, h]

/-- Settles O38: EXEC runs its issue step on an idle channel, and the unassigned opcode ends its own write phase. -/
theorem unassignedOpcodeIsUnsupported : Obligations.UnassignedOpcodeIsUnsupported := by
  intro c op tr d req s he
  refine ⟨fun hidle hopen => ?_, fun hwrite => ?_⟩
  · have hissue : exec (.exec c op tr d) s = .next (issueStep c op tr d s) := whenIdle_of_idle _ hidle
    rw [issueStep_unassigned he hopen] at hissue
    exact ⟨_, hissue, onlyAnswers_respond s c _⟩
  · exact ⟨_, exec_unassigned_of_write hwrite op req, ends_complete s _, rfl, rfl, rfl, rfl⟩

end Sys2Proof.Machine

/-! ## The Frame Codec's statements (40_crc_codec.md): ENCODE (O4), DECODE (O5), CRC32 (O1) and the reference vector
(O2) -/

namespace Sys2Proof.Machine

/-! ### A response after a CRC (R61, R101) -/

/-- An operation that computes a CRC and answers leaves the register at its new value and changes nothing else
(R10, R30). -/
theorem onlyAnswers_respond_withCrcAcc (s : State) (c : Caller) (r : Response) (acc : Word) :
    OnlyAnswers c r acc s ({ s with crcAcc := acc }.respond c r) :=
  have h := onlyAnswers_respond { s with crcAcc := acc } c r
  { answered := ⟨h.answered.responses, h.answered.own, h.answered.others⟩
    channel := ⟨rfl, rfl, rfl, rfl, rfl, rfl⟩
    cnt := rfl
    wire := rfl
    crcAcc := h.crcAcc
    run := ⟨rfl, rfl, rfl, rfl, rfl⟩ }

/-! ### ENCODE (R105) -/

/-- ENCODE of a body of its kind's length (R105). -/
theorem exec_encode_of_length_eq {s : State} {k : Kind} {d : List Byte} (h : d.length = s.cfg.size k - 4) (c : Caller) :
    exec (.encode c k d) s
      = .next ({ s with crcAcc := crcReg d }.respond c ⟨.ok, .bytes (encodeRecord s.cfg d)⟩) :=
  if_neg (not_not.mpr h)

/-- ENCODE of a body of another length, which computes no CRC (R105). -/
theorem exec_encode_of_length_ne {s : State} {k : Kind} {d : List Byte} (h : d.length ≠ s.cfg.size k - 4) (c : Caller) :
    exec (.encode c k d) s = .next (s.respond c ⟨.sizeMismatch, .sizes (s.cfg.size k - 4) d.length⟩) :=
  if_pos h

/-- A body of its kind's length and the trailer are a record of the kind's size (R73, R105): no size is below the
trailer's four bytes (R8 WF1). -/
theorem encodeRecord_length_eq_size {cfg : Config} (hw : cfg.wf = true) {k : Kind} {d : List Byte}
    (h : d.length = cfg.size k - 4) : (encodeRecord cfg d).length = cfg.size k := by
  rw [encodeRecord_length, h, Nat.sub_add_cancel (Config.size_ge_four hw k)]

/-- Settles O4: the record is `encodeRecord`, and each case of ENCODE's length check is a response. -/
theorem encodeBuildsRecordOrSizeMismatch : Obligations.EncodeBuildsRecordOrSizeMismatch := by
  intro c k d s hw
  refine ⟨fun hl => ⟨encodeRecord_length_eq_size hw hl, ?_⟩, fun hl => ?_⟩
  · exact ⟨_, exec_encode_of_length_eq hl c, onlyAnswers_respond_withCrcAcc s c _ _⟩
  · exact ⟨_, exec_encode_of_length_ne hl c, onlyAnswers_respond s c _⟩

/-! ### DECODE (R106 to R108) -/

section
variable {k : Kind} {d : List Byte}

/-- The record of a telemetry kind has the three telemetry fields (R75, R108). -/
theorem mkRecord_telemetry_of_isTelemetry (h : k.isTelemetry = true) (d : List Byte) :
    (mkRecord k d).telemetry = some ⟨byteAt d 0, le32 d 1, memRead d 5 (d.length - 9)⟩ :=
  if_pos h

/-- The record of any other kind has none (R108). -/
theorem mkRecord_telemetry_of_not_isTelemetry (h : k.isTelemetry = false) (d : List Byte) :
    (mkRecord k d).telemetry = none :=
  if_neg (by simp [h])

/-- DECODE gives what the verifier answers, and nothing but the register changes (R106, R61). -/
theorem exec_decode_onlyAnswers {s : State} {r : Response} {acc : Word}
    (h : decodeRecord s.cfg k s.crcAcc d = (r, acc)) (c : Caller) :
    ∃ t, exec (.decode c k d) s = .next t ∧ OnlyAnswers c r acc s t := by
  have hexec : exec (.decode c k d) s
      = .next ({ s with crcAcc := (decodeRecord s.cfg k s.crcAcc d).2 }.respond c
          (decodeRecord s.cfg k s.crcAcc d).1) := rfl
  rw [h] at hexec
  exact ⟨_, hexec, onlyAnswers_respond_withCrcAcc s c r acc⟩

end

/-- Settles O5: each case of the verifier answers its own clause and excludes the other two. -/
theorem decodeChecksLengthThenChecksum : Obligations.DecodeChecksLengthThenChecksum := by
  intro c k d s
  obtain ⟨hl, e⟩ | ⟨hl, hc, e⟩ | ⟨hl, hc, e⟩ := decodeRecord_cases s.cfg k s.crcAcc d
  · exact ⟨fun _ => exec_decode_onlyAnswers e c, fun h => absurd h hl, fun h => absurd h hl⟩
  · exact ⟨fun h => absurd hl h, fun _ _ => exec_decode_onlyAnswers e c, fun _ h => absurd h hc⟩
  · refine ⟨fun h => absurd hl h, fun _ h => absurd hc h, fun _ _ => ?_⟩
    obtain ⟨t, hexec, hanswers⟩ := exec_decode_onlyAnswers e c
    exact ⟨t, mkRecord k d, hexec, hanswers, rfl, rfl, rfl,
      fun h => mkRecord_telemetry_of_isTelemetry h d, fun h => mkRecord_telemetry_of_not_isTelemetry h d⟩

/-! ### CRC32 (R102, R104) -/

/-- Settles O1: CRC32 has one case, a response after the CRC. -/
theorem crc32RespondsChecksum : Obligations.Crc32RespondsChecksum :=
  fun c _ s => ⟨_, rfl, onlyAnswers_respond_withCrcAcc s c _ _⟩

/-- Under the final XOR of zero the checksum is the register itself (R101). -/
theorem crc32_of_xorOut_zero {cfg : Config} (h : cfg.crcXorOut = 0#32) (b : List Byte) : crc32 cfg b = crcReg b := by
  rw [crc32, h, BitVec.xor_zero]

/-- Under the final XOR of ones the checksum is the register's complement (R101). -/
theorem crc32_of_xorOut_ones {cfg : Config} (h : cfg.crcXorOut = 0xFFFFFFFF#32) (b : List Byte) :
    crc32 cfg b = ~~~ crcReg b := by
  rw [crc32, h]
  exact BitVec.xor_allOnes

/-- The register after the ASCII digits `123456789`, before the final XOR (R102). -/
theorem crcReg_check_string :
    crcReg [0x31#8, 0x32#8, 0x33#8, 0x34#8, 0x35#8, 0x36#8, 0x37#8, 0x38#8, 0x39#8] = 0x0376E6E7#32 := by
  decide +kernel

/-- Four bytes of ones cancel the initial value (R104). -/
theorem crcReg_four_ones : crcReg [0xFF#8, 0xFF#8, 0xFF#8, 0xFF#8] = 0#32 := by
  decide +kernel

/-- Settles O2: under each final XOR the checksum is read off the register. -/
theorem crcReferenceVector : Obligations.CrcReferenceVector := by
  refine fun cfg => ⟨fun h0 => ?_, fun h1 => ?_⟩
  · simp only [crc32_of_xorOut_zero h0]
    exact ⟨crcReg_check_string, rfl, crcReg_four_ones⟩
  · rw [crc32_of_xorOut_ones h1, crcReg_check_string]
    rfl

end Sys2Proof.Machine

/-! ## The Command Catalog's statements (41_dispatch.md): CLASSIFY (O13), the response length (O12), the permitted
transports (O10), the persistent opcodes (O9) and SET_MASK (O28) -/

namespace Sys2Proof

/-! ### The persistent block (R135, R8 WF6) -/

namespace Config

theorem insertAscending_perm (x : Nat) (l : List Nat) : (insertAscending x l).Perm (x :: l) := by
  induction l with
  | nil => exact .refl _
  | cons y ys ih =>
    unfold insertAscending
    split
    · exact .refl _
    · exact (ih.cons y).trans (.swap x y ys)

/-- Sorting loses and adds no value (R135). -/
theorem sortAscending_perm (l : List Nat) : (sortAscending l).Perm l := by
  induction l with
  | nil => exact .refl _
  | cons x xs ih => exact (insertAscending_perm x _).trans (ih.cons x)

/-- A list whose values go up by one is a range (R135). -/
theorem eq_range'_of_consecutive {x : Nat} {l : List Nat} (h : consecutive (x :: l) = true) :
    x :: l = List.range' x (l.length + 1) := by
  induction l generalizing x with
  | nil => rfl
  | cons y ys ih =>
    simp only [consecutive, Bool.and_eq_true, beq_iff_eq] at h
    obtain ⟨rfl, htail⟩ := h
    exact congrArg (x :: ·) (ih htail)

/-- Values that are consecutive once sorted are one range, in some order (R135). -/
theorem exists_perm_range'_of_consecutive_sortAscending {l : List Nat} (h : consecutive (sortAscending l) = true) :
    ∃ p, l.Perm (List.range' p l.length) := by
  have hperm := (sortAscending_perm l).symm
  cases hs : sortAscending l with
  | nil =>
    rw [hs] at hperm
    exact ⟨0, by rw [hperm.eq_nil]; exact .refl _⟩
  | cons x xs =>
    rw [hs] at h hperm
    have hlen : l.length = xs.length + 1 := hperm.length_eq
    rw [eq_range'_of_consecutive h, ← hlen] at hperm
    exact ⟨x, hperm⟩

/-- WF6 of R8. -/
theorem persistSet_consecutive {cfg : Config} (h : cfg.wf = true) :
    consecutive (sortAscending (persistSet.map fun cmd => (cfg.op cmd).toNat)) = true := by
  obtain ⟨-, -, -, -, -, h6, -, -⟩ := wf_iff.mp h
  exact h6

/-! ### The capabilities of the restricted commands (R133, R8 WF7) -/

/-- WF7 of R8, for SET_MASK. -/
theorem cap_setMask {cfg : Config} (h : cfg.wf = true) : cfg.cap .setMask = streamOnly := by
  obtain ⟨-, -, -, -, -, -, h7, -⟩ := wf_iff.mp h
  simp only [wf7, Bool.and_eq_true, beq_iff_eq] at h7
  exact h7.1

/-- WF7 of R8, for a DFU command. -/
theorem cap_dfu {cfg : Config} (h : cfg.wf = true) {cmd : Command} (hc : cmd ∈ dfuCommands) :
    (cfg.cap cmd).spi = false ∧ (cfg.cap cmd).usbStream = false := by
  obtain ⟨-, -, -, -, -, -, h7, -⟩ := wf_iff.mp h
  simp only [wf7, Bool.and_eq_true, List.all_eq_true, Bool.not_eq_true'] at h7
  exact h7.2 cmd hc

theorem mem_dfuCommands_iff {cmd : Command} :
    cmd ∈ dfuCommands ↔ cmd = .setDfuMode ∨ cmd = .setDfuBlock ∨ cmd = .getDfuMode ∨ cmd = .getDfuAck := by
  simp [dfuCommands]

theorem streamOnly_has_iff (t : Transport) : streamOnly.has t = true ↔ t = .usbStream := by
  cases t <;> decide

end Config

/-- A set without SPI and without the streaming endpoint has at most the control channel (R133). -/
theorem TransportSet.eq_usbCtrl_of_has {s : TransportSet} {t : Transport} (hspi : s.spi = false)
    (hstream : s.usbStream = false) (h : s.has t = true) : t = .usbCtrl := by
  cases t with
  | usbCtrl => rfl
  | spi => exact absurd (h.symm.trans hspi) (by decide)
  | usbStream => exact absurd (h.symm.trans hstream) (by decide)

namespace Machine

/-- Settles O9: WF6 sorts the opcodes and finds them consecutive, and sorting is a permutation. -/
theorem persistentOpcodesAreConsecutive : Obligations.PersistentOpcodesAreConsecutive := fun _ hw =>
  Config.exists_perm_range'_of_consecutive_sortAscending (Config.persistSet_consecutive hw)

/-! ### The permitted transports (R133) -/

section
variable {cfg : Config}

/-- A command is permitted on the transports of its capability (R133). -/
theorem permitted_op (h : cfg.wf = true) (cmd : Command) (t : Transport) :
    permitted cfg (cfg.op cmd) t = (cfg.cap cmd).has t :=
  permitted_of_entry (entry_op h cmd) t

/-- An opcode of no entry is permitted nowhere (R133). -/
theorem permitted_of_entry_none {op : Byte} (h : entry cfg op = none) (t : Transport) : permitted cfg op t = false := by
  simp only [permitted, h]

end

/-- Settles O10: a command's opcode is permitted as its capability says, and WF7 fixes or bounds the capability. -/
theorem restrictedCommandsKeepTheirTransport : Obligations.RestrictedCommandsKeepTheirTransport := by
  intro cfg t hw
  refine ⟨fun op he => permitted_of_entry_none he t, ?_, fun cmd hc hp => ?_⟩
  · rw [permitted_op hw, Config.cap_setMask hw]
    exact Config.streamOnly_has_iff t
  · obtain ⟨hspi, hstream⟩ := Config.cap_dfu hw (Config.mem_dfuCommands_iff.mpr hc)
    exact TransportSet.eq_usbCtrl_of_has hspi hstream ((permitted_op hw cmd t).symm.trans hp)

/-! ### The response length (R132) -/

/-- Only the record reads have a record response (R130). -/
theorem cls_of_resp_record {cmd : Command} {k : Kind} (h : cmd.resp = .record k) : cmd.cls = .rread := by
  cases cmd <;> first | rfl | cases h

section
variable {cfg : Config} {op : Byte}

/-- A write has no response (R132). -/
theorem respLen_of_write (h : opClass op = .write) (mask : Byte) : respLen cfg op mask = 0 := by
  simp only [respLen, h]

/-- A record read gives its response kind's record (R132). -/
theorem respLen_of_rread {cmd : Command} {k : Kind} (h : opClass op = .rread) (he : entry cfg op = some cmd)
    (hk : cmd.resp = .record k) (mask : Byte) : respLen cfg op mask = cfg.size k := by
  simp only [respLen, h, he, respRecordLen, hk]

/-- A single-value read gives GET_MASK_DATA's composite or one byte (R132). -/
theorem respLen_of_svread (h : opClass op = .svread) (mask : Byte) :
    respLen cfg op mask = if op = cfg.op .getMaskData then compositeLen cfg mask else 1 := by
  simp only [respLen, h]

end

/-- Settles O12: an opcode is in its command's class (R136), which picks the line of R132. -/
theorem responseLengthOfEachCommand : Obligations.ResponseLengthOfEachCommand := by
  intro cfg cmd mask hw
  have hcls := Config.opClass_op hw cmd
  refine ⟨fun hwrite => ?_, fun k hk => ?_, ?_, ?_⟩
  · exact respLen_of_write (hcls.trans hwrite) mask
  · exact respLen_of_rread (hcls.trans (cls_of_resp_record hk)) (entry_op hw cmd) hk mask
  · rintro rfl
    rw [respLen_of_svread hcls, if_pos rfl]
  · rintro rfl
    have hne : cfg.op .getPing ≠ cfg.op .getMaskData := fun e => absurd (Config.op_injective hw e) (by decide)
    rw [respLen_of_svread hcls, if_neg hne]

/-! ### CLASSIFY (R137) -/

section
variable {cfg : Config} {op : Byte}

/-- CLASSIFY's record of a catalogued opcode is the entry's (R137). -/
theorem classification_of_entry {cmd : Command} (h : entry cfg op = some cmd) (t : Transport) (mask : Byte) :
    classification cfg op t mask
      = ⟨(opClass op).code, true, BitVec.ofNat 8 cmd.idx.val, reqCode cmd.req, respCode cmd.resp,
          (cfg.cap cmd).has t, respLen cfg op mask⟩ := by
  simp only [classification, h, permitted_of_entry h]

/-- CLASSIFY's record of any other opcode (R137). -/
theorem classification_of_entry_none (h : entry cfg op = none) (t : Transport) (mask : Byte) :
    classification cfg op t mask = ⟨(opClass op).code, false, 0xFF#8, 0xFF#8, 0xFF#8, false, 0⟩ := by
  simp only [classification, h, permitted_of_entry_none h]

/-- CLASSIFY reports the class of every opcode (R71, R137). -/
theorem classification_cls (cfg : Config) (op : Byte) (t : Transport) (mask : Byte) :
    (classification cfg op t mask).cls = (opClass op).code := by
  cases h : entry cfg op with
  | none => rw [classification_of_entry_none h]
  | some cmd => rw [classification_of_entry h]

/-- A catalog index fits the byte it is reported in (R130, R137). -/
theorem toNat_ofNat_idx (cmd : Command) : (BitVec.ofNat 8 cmd.idx.val).toNat = cmd.idx.val := by
  rw [BitVec.toNat_ofNat]
  exact Nat.mod_eq_of_lt (by omega)

end

/-- Settles O13: CLASSIFY is a response with its record, which is read off by whether the catalog has the opcode. -/
theorem classifyReportsTheCatalog : Obligations.ClassifyReportsTheCatalog := by
  intro c op t s
  refine ⟨_, classification s.cfg op t s.maskShadow, rfl, onlyAnswers_respond s c _, classification_cls _ _ _ _,
    fun cmd he => ?_, fun he => ?_⟩
  · rw [classification_of_entry he]
    exact ⟨rfl, toNat_ofNat_idx cmd, rfl, rfl, rfl, rfl⟩
  · rw [classification_of_entry_none he]
    exact ⟨rfl, rfl, rfl, rfl, rfl, rfl⟩

/-! ### SET_MASK (R148, R207) -/

/-- A write-phase step that transmits every byte goes on (R206). -/
theorem transmit_of_count_eq {s : State} {tx : List Byte} (h : s.inputs.txCount = tx.length) (done : State → State) :
    transmit s tx done = .next (done (s.logTransfer (.tx s.seqCtx.t tx s.inputs.txCount))) := by
  rw [transmit, if_neg h.not_gt, if_neg h.not_lt]

/-- A write command whose bytes are all transmitted does its completion and answers OK (R206, R207). -/
theorem writeCommand_of_count_eq {s : State} {tx : List Byte} (hp : s.seqPhase = .write)
    (h : s.inputs.txCount = tx.length) (done : State → State) :
    writeCommand s tx done
      = .next ((done (s.logTransfer (.tx s.seqCtx.t tx s.inputs.txCount))).complete ⟨.ok, .none⟩) := by
  simp only [writeCommand, hp, transmit_of_count_eq h]

/-- A transaction ends all the same where its last step has also written `S.DESYNC`, `S.MASK_SHADOW`, `S.CRC_ACC` or the
wire (R206, R207, R210). -/
theorem ends_complete_update (s : State) (desync : Bool) (mask : Byte) (acc : Word) (wire : List Transfer)
    (r : Response) :
    Ends r s
      ({ s with desync := desync, maskShadow := mask, crcAcc := acc, wire := wire }.complete r) :=
  have h := ends_complete { s with desync := desync, maskShadow := mask, crcAcc := acc, wire := wire } r
  { answered := ⟨h.answered.responses, h.answered.own, h.answered.others⟩
    idle := rfl
    chOpen := rfl
    chLink := rfl
    seqCtx := rfl
    cnt := rfl
    run := ⟨rfl, rfl, rfl, rfl, rfl⟩ }

/-- Settles O28: SET_MASK is the write command of two bytes whose completion loads the shadow. -/
theorem setMaskLoadsTheShadow : Obligations.SetMaskLoadsTheShadow := by
  intro m s hp hcount
  have hexec : exec (.setMask m) s
      = .next ({ s.logTransfer (.tx s.seqCtx.t [s.cfg.op .setMask, m] s.inputs.txCount) with maskShadow := m }.complete
          ⟨.ok, .none⟩) :=
    writeCommand_of_count_eq (tx := [s.cfg.op .setMask, m]) hp hcount _
  rw [hcount] at hexec
  exact ⟨_, hexec, rfl, ends_complete_update s s.desync m s.crcAcc _ _, rfl, rfl, rfl⟩

end Machine

end Sys2Proof

/-! ## The multiplexer's statements (42_mux.md): PARSE (O20), BUILD (O16, O17, O18) and TICK (O14) -/

namespace Sys2Proof.Machine

/-! ### PARSE (R181) -/

section
variable {cfg : Config} {m : Byte} {d : List Byte}

/-- The variables of the parser after its loop over every kind (R181). -/
def parsed (cfg : Config) (m : Byte) (acc : Word) (d : List Byte) : ParseState :=
  parseFrom cfg m d TKind.all (ParseState.start acc)

theorem parseComposite_eq (cfg : Config) (m : Byte) (acc : Word) (d : List Byte) :
    parseComposite cfg m acc d = (parseResponse cfg m d (parsed cfg m acc d), (parsed cfg m acc d).acc) := rfl

/-- The canonical order names no kind twice (R170). -/
theorem kinds_nodup : TKind.all.Nodup := by decide

/-- PARSE gives a slot to each enabled kind in canonical order, and each slot holds what its place in the bytes says,
whatever the length of the bytes (R181). -/
theorem parsed_slots (cfg : Config) (m : Byte) (acc : Word) (d : List Byte) :
    (parsed cfg m acc d).slots.map Slot.kind = TKind.all.filter (enabled cfg m)
      ∧ ∀ x ∈ (parsed cfg m acc d).slots, SlotHolds cfg d (offsetOf cfg m x.kind) x := by
  obtain ⟨slots, hslots, hkinds, hholds⟩ :=
    parseFrom_slots (cfg := cfg) (m := m) (st := ParseState.start acc) TKind.all kinds_nodup rfl
      (Nat.zero_le d.length)
  rw [show (parsed cfg m acc d).slots = slots from hslots]
  exact ⟨hkinds, fun x hx => (Nat.zero_add (offsetOf cfg m x.kind)) ▸ hholds x hx⟩

/-- PARSE of too few bytes names the kind whose record does not fit, and where it starts (R181, R246). -/
theorem parseResponse_of_length_lt (h : d.length < compositeLen cfg m) (acc : Word) :
    ∃ k, enabled cfg m k = true ∧ d.length - offsetOf cfg m k < cfg.size k.toKind ∧ offsetOf cfg m k ≤ d.length
      ∧ parseResponse cfg m d (parsed cfg m acc d)
        = ⟨.truncatedComposite,
            .truncated (parsed cfg m acc d).slots k (d.length - offsetOf cfg m k) (cfg.size k.toKind)⟩ := by
  have hshort : d.length < (ParseState.start acc).off + lenFrom cfg m TKind.all := (Nat.zero_add _).symm ▸ h
  obtain ⟨k, off, -, hk, hoff, hle, hlt, htrunc, -⟩ :=
    parseFrom_truncates TKind.all kinds_nodup rfl (Nat.zero_le d.length) hshort
  obtain rfl : off = offsetOf cfg m k := hoff.trans (Nat.zero_add _)
  refine ⟨k, hk, hlt, hle, ?_⟩
  rw [parseResponse, show (parsed cfg m acc d).trunc = _ from htrunc]

/-- Where the bytes reach the composite's length, the loop ends at that length, every slot holds a decoded record and
`anyck` tells whether a checksum failed (R181). -/
theorem parsed_of_length_ge (h : compositeLen cfg m ≤ d.length) (acc : Word) :
    (parsed cfg m acc d).trunc = none ∧ (parsed cfg m acc d).off = compositeLen cfg m
      ∧ (parsed cfg m acc d).anyck = (parsed cfg m acc d).slots.any (·.status == .checksumError)
      ∧ ∀ x ∈ (parsed cfg m acc d).slots, x.status = .ok ∨ x.status = .checksumError := by
  have hfits : (ParseState.start acc).off + lenFrom cfg m TKind.all ≤ d.length := (Nat.zero_add _).symm ▸ h
  obtain ⟨slots, acc', e, -, hstatus⟩ := parseFrom_fits (m := m) TKind.all rfl hfits
  rw [show parsed cfg m acc d = _ from e]
  exact ⟨rfl, Nat.zero_add _, Bool.false_or _, hstatus⟩

/-- PARSE of too many bytes names both lengths (R181, R241). -/
theorem parseResponse_of_length_gt (h : compositeLen cfg m < d.length) (acc : Word) :
    parseResponse cfg m d (parsed cfg m acc d)
      = ⟨.sizeMismatch, .excess (parsed cfg m acc d).slots (compositeLen cfg m) d.length⟩ := by
  obtain ⟨htrunc, hoff, -, -⟩ := parsed_of_length_ge h.le acc
  simp only [parseResponse, htrunc, hoff, if_pos h]

/-- PARSE of bytes of the composite's length answers OK, or CHECKSUM_ERROR where some slot has that status (R181,
R242). -/
theorem parseResponse_of_length_eq (h : d.length = compositeLen cfg m) (acc : Word) :
    (parseResponse cfg m d (parsed cfg m acc d) = ⟨.ok, .slots (parsed cfg m acc d).slots⟩
      ∧ ∀ x ∈ (parsed cfg m acc d).slots, x.status = .ok)
    ∨ (parseResponse cfg m d (parsed cfg m acc d) = ⟨.checksumError, .slots (parsed cfg m acc d).slots⟩
      ∧ ∃ x ∈ (parsed cfg m acc d).slots, x.status = .checksumError) := by
  obtain ⟨htrunc, hoff, hanyck, hstatus⟩ := parsed_of_length_ge h.ge acc
  have hresponse : parseResponse cfg m d (parsed cfg m acc d)
      = if (parsed cfg m acc d).anyck then ⟨.checksumError, .slots (parsed cfg m acc d).slots⟩
        else ⟨.ok, .slots (parsed cfg m acc d).slots⟩ := by
    simp only [parseResponse, htrunc, hoff, h, lt_irrefl, if_false]
  cases hck : (parsed cfg m acc d).anyck with
  | false =>
    have hnone : ∀ x ∈ (parsed cfg m acc d).slots, x.status ≠ .checksumError := by simpa [hck] using hanyck
    exact .inl ⟨by rw [hresponse, hck]; rfl, fun x hx => (hstatus x hx).resolve_right (hnone x hx)⟩
  | true =>
    have hsome : ∃ x ∈ (parsed cfg m acc d).slots, x.status = .checksumError := by simpa [hck] using hanyck
    exact .inr ⟨by rw [hresponse, hck]; rfl, hsome⟩

end

/-- Settles O20: the slots are those of the parser's loop, and the response is read off its end by the length of the
bytes. -/
theorem parseStatusFollowsLength : Obligations.ParseStatusFollowsLength := by
  intro c m d s
  obtain ⟨hkinds, hholds⟩ := parsed_slots s.cfg m s.crcAcc d
  refine ⟨_, parseResponse s.cfg m d (parsed s.cfg m s.crcAcc d), _, (parsed s.cfg m s.crcAcc d).slots, rfl,
    onlyAnswers_respond_withCrcAcc s c _ _, hkinds, fun hlt => ?_, fun hgt => parseResponse_of_length_gt hgt _,
    fun heq => parseResponse_of_length_eq heq _,
    fun x hx => ⟨fun hfits => ⟨(hholds x hx).ok hfits, (hholds x hx).bad hfits⟩, (hholds x hx).short⟩⟩
  obtain ⟨k, hk, hlong, hoff, hresponse⟩ := parseResponse_of_length_lt hlt s.crcAcc
  exact ⟨k, _, hk, hlong, rfl, hoff, hresponse⟩

/-! ### BUILD (R175 to R180) -/

section
variable {s : State} {m : Byte}

/-- The sample source keeps its length contract for every kind BUILD reads (R14, R175). -/
def PayloadsFit (s : State) (m : Byte) : Prop :=
  ∀ k, enabled s.cfg m k = true → s.inputs.src[k.idx].length + 9 = s.cfg.size k.toKind

/-- The records of the enabled kinds in canonical order (R176). -/
def builtComposite (s : State) (m : Byte) : List Byte :=
  (TKind.all.filter (enabled s.cfg m)).flatMap (builtRecord s.cfg s.cnt s.inputs.src)

/-- BUILD over payloads that fit answers with the composite (R176). -/
theorem exec_build_of_fit (h : PayloadsFit s m) (c : Caller) :
    ∃ acc, exec (.build c m) s
      = .next ({ s with crcAcc := acc }.respond c ⟨.ok, .bytes (builtComposite s m)⟩) := by
  obtain ⟨acc, e⟩ := buildFrom_some (cnt := s.cnt) TKind.all (fun k _ hk => h k hk) [] s.crcAcc
  have hbuilt : buildComposite s.cfg s.cnt s.inputs.src m s.crcAcc = some (builtComposite s m, acc) := e
  exact ⟨acc, by simp only [exec, execBuild, hbuilt]⟩

/-- BUILD over a payload that does not fit is refused (R175, R247). -/
theorem exec_build_of_not_fit (h : ¬ PayloadsFit s m) (c : Caller) :
    exec (.build c m) s = .next (s.refuseRequest c) := by
  have hnone : buildComposite s.cfg s.cnt s.inputs.src m s.crcAcc = none :=
    Option.eq_none_iff_forall_ne_some.mpr fun _ e => h fun k hk => buildFrom_contract e k k.mem_all hk
  simp only [exec, execBuild, hnone]

/-- BUILD answers with bytes only where the payloads fit, and then with the composite (R175, R176). -/
theorem build_answers_bytes {c : Caller} {t : State} {out : List Byte} (h : exec (.build c m) s = .next t)
    (hr : t.responses = (c, ⟨.ok, .bytes out⟩) :: s.responses) : PayloadsFit s m ∧ out = builtComposite s m := by
  by_cases hfit : PayloadsFit s m
  · obtain ⟨acc, e⟩ := exec_build_of_fit hfit c
    cases e.symm.trans h
    rw [State.respond_responses] at hr
    cases hr
    exact ⟨hfit, rfl⟩
  · cases (exec_build_of_not_fit hfit c).symm.trans h
    exact absurd hr.symm (List.cons_ne_self _ _)

/-- A composite is as long as its records (R177). -/
theorem builtComposite_length (h : PayloadsFit s m) :
    (builtComposite s m).length = ((TKind.all.filter (enabled s.cfg m)).map fun k => s.cfg.size k.toKind).sum := by
  rw [builtComposite, List.length_flatMap]
  exact congrArg List.sum (List.map_congr_left fun k hk => builtRecord_length (h k (List.mem_filter.mp hk).2))

/-- Every kind is enabled in the full mask (R77). -/
theorem enabled_full (cfg : Config) (k : TKind) : enabled cfg 0xFF#8 k = true := by
  have hbits : ∀ i : Fin 8, (0xFF#8).getLsbD i.val = true := by decide
  exact hbits (cfg.kindBit k)

/-- The composite of the full mask has a record of every kind (R178). -/
theorem compositeLen_full (cfg : Config) :
    compositeLen cfg 0xFF#8 = (TKind.all.map fun k => cfg.size k.toKind).sum := by
  rw [compositeLen, lenFrom_eq_sum, List.filter_eq_self.mpr fun k _ => enabled_full cfg k]

/-- The sizes of some of the kinds add up to at most those of all (R178). -/
theorem sum_size_filter_le (cfg : Config) (p : TKind → Bool) :
    ((TKind.all.filter p).map fun k => cfg.size k.toKind).sum ≤ (TKind.all.map fun k => cfg.size k.toKind).sum :=
  (List.filter_sublist.map _).sum_le_sum fun _ _ => Nat.zero_le _

end

/-- Settles O16: the composite of BUILD is the records of the enabled kinds, and only the register changes besides the
answer. -/
theorem buildConcatenatesEnabledRecords : Obligations.BuildConcatenatesEnabledRecords := by
  intro c m s hfit
  obtain ⟨acc, hexec⟩ := exec_build_of_fit (m := m) hfit c
  exact ⟨_, acc, hexec, onlyAnswers_respond_withCrcAcc s c _ acc⟩

/-- Settles O17: one payload of another length breaks the contract, and BUILD is refused. -/
theorem buildRefusesWrongPayloadLength : Obligations.BuildRefusesWrongPayloadLength := by
  intro c m k s hk hlen
  have hbroken : ¬ PayloadsFit s m := fun h => hlen (h k hk)
  exact ⟨_, exec_build_of_not_fit hbroken c, onlyRefuses_refuseRequest s c⟩

/-- Settles O18: the bytes answered are the composite, whose length is the sum over the enabled kinds, and the full
mask's sum runs over all. -/
theorem compositeLengthIsSumOfSizes : Obligations.CompositeLengthIsSumOfSizes := by
  intro c m s t out _ hexec hr
  obtain ⟨hfit, rfl⟩ := build_answers_bytes hexec hr
  have hlen := builtComposite_length hfit
  refine ⟨hlen, ?_, compositeLen_full s.cfg⟩
  rw [hlen, compositeLen_full]
  exact sum_size_filter_le s.cfg _

/-! ### TICK (R172) -/

/-- Settles O14: TICK writes one counter, whose word addition is the sum modulo `2^32`, and answers. -/
theorem tickAdvancesOneCounter : Obligations.TickAdvancesOneCounter := by
  intro c k s
  have h := answered_respond (s.setCounter k (s.counter k + 1#32)) c ⟨.ok, .none⟩
  refine ⟨_, rfl, ?_, fun k' hne => State.counter_setCounter_ne s _ hne, ⟨h.responses, h.own, h.others⟩,
    ⟨rfl, rfl, rfl, rfl, rfl, rfl⟩, rfl, rfl, ⟨rfl, rfl, rfl, rfl, rfl⟩⟩
  exact (congrArg BitVec.toNat (State.counter_setCounter_self s k _)).trans (BitVec.toNat_add _ _)

end Sys2Proof.Machine

/-! ## The sequencer's statements (43_sequencer.md): EXEC's issue step (O25, O26), the write phase (O27, O29, O34, O32),
the read phase (O30, O31, O33, O35, O36), the operations without the channel (O56), OPEN and CLOSE (O22, O23), and a
whole write and a whole read transaction (O59, O60) -/

namespace Sys2Proof.Machine

/-! ### EXEC's issue step (R204, R205) -/

/-- The reads are the commands that send nothing after the opcode (R130). -/
theorem req_eq_none_iff (cmd : Command) : cmd.req = .none ↔ cmd.cls ≠ .write := by
  cases cmd <;> decide

/-- The state of a transaction whose issue checks passed (R205). -/
def enterWrite (s : State) (c : Caller) (cmd : Command) (op : Byte) (tr : Transport) (d : List Byte) : State :=
  { s with crcAcc := issueAcc cmd s.crcAcc d, seqCtx := issueCtx s c cmd op tr d, seqPhase := .write }

section
variable {s : State} {op : Byte} {tr : Transport} {d : List Byte} {cmd : Command}

/-- The issue step on the open channel's link for a permitted command (R204): the body's length is checked last. -/
theorem issueStep_of_permitted (hopen : s.chOpen = true) (hlink : tr.link = s.chLink)
    (he : entry s.cfg op = some cmd) (hperm : permitted s.cfg op tr = true) (c : Caller) :
    issueStep c op tr d s
      = if d.length ≠ bodyLen s.cfg cmd then s.respond c ⟨.sizeMismatch, .sizes (bodyLen s.cfg cmd) d.length⟩
        else enterWrite s c cmd op tr d := by
  simp only [issueStep, he]
  rw [if_neg (by simp [hopen]), if_neg (not_not.mpr hlink), if_neg (by simp [hperm])]
  rfl

/-- The issue step on the other link, or for an opcode its transport does not permit (R204). -/
theorem issueStep_unsupported (hopen : s.chOpen = true) (h : tr.link ≠ s.chLink ∨ permitted s.cfg op tr = false)
    (c : Caller) : issueStep c op tr d s = s.respond c ⟨.unsupportedOnTransport, .unsupported op tr⟩ := by
  cases he : entry s.cfg op with
  | none => exact issueStep_unassigned he hopen c tr d
  | some cmd =>
    simp only [issueStep, he]
    rw [if_neg (by simp [hopen])]
    obtain hlink | hperm := h
    · rw [if_pos hlink]
    · rw [if_pos hperm, ite_self]

/-- The issue step with a body of the wrong length (R204). -/
theorem issueStep_of_length_ne (hopen : s.chOpen = true) (hlink : tr.link = s.chLink)
    (he : entry s.cfg op = some cmd) (hperm : permitted s.cfg op tr = true) (hd : d.length ≠ bodyLen s.cfg cmd)
    (c : Caller) :
    issueStep c op tr d s = s.respond c ⟨.sizeMismatch, .sizes (bodyLen s.cfg cmd) d.length⟩ := by
  rw [issueStep_of_permitted hopen hlink he hperm, if_pos hd]

/-- The issue step that passes every check (R205). -/
theorem issueStep_of_length_eq (hopen : s.chOpen = true) (hlink : tr.link = s.chLink)
    (he : entry s.cfg op = some cmd) (hperm : permitted s.cfg op tr = true) (hd : d.length = bodyLen s.cfg cmd)
    (c : Caller) : issueStep c op tr d s = enterWrite s c cmd op tr d := by
  rw [issueStep_of_permitted hopen hlink he hperm, if_neg (not_not.mpr hd)]

/-- EXEC takes its issue step on an idle channel (R203). -/
theorem exec_exec_of_idle (hp : s.seqPhase = .idle) (c : Caller) (op : Byte) (tr : Transport) (d : List Byte) :
    exec (.exec c op tr d) s = .next (issueStep c op tr d s) :=
  whenIdle_of_idle _ hp

end

section
variable {cfg : Config} {cmd : Command}

/-- A command that sends nothing after its opcode takes no body (R204). -/
theorem bodyLen_of_none (h : cmd.req = .none) : bodyLen cfg cmd = 0 := by
  simp only [bodyLen, h]

/-- SET_MASK's body is the mask byte (R204). -/
theorem bodyLen_of_rawMask (h : cmd.req = .rawMask) : bodyLen cfg cmd = 1 := by
  simp only [bodyLen, h]

/-- A record command's body is the record without its trailer (R204). -/
theorem bodyLen_of_record {k : Kind} (h : cmd.req = .record k) : bodyLen cfg cmd = cfg.size k - 4 := by
  simp only [bodyLen, h]

/-- The write-phase bytes of a command that sends its opcode only (R81, R205). -/
theorem issueBytes_of_none (h : cmd.req = .none) (d : List Byte) : issueBytes cfg cmd d = [cfg.op cmd] := by
  simp only [issueBytes, h]

/-- The write-phase bytes of SET_MASK (R81, R205). -/
theorem issueBytes_of_rawMask (h : cmd.req = .rawMask) (d : List Byte) :
    issueBytes cfg cmd d = cfg.op cmd :: d := by
  simp only [issueBytes, h]

/-- The write-phase bytes of a record command: the record ENCODE would build, after the opcode (R81, R205). -/
theorem issueBytes_of_record {k : Kind} (h : cmd.req = .record k) (d : List Byte) :
    issueBytes cfg cmd d = cfg.op cmd :: (d ++ le32bytes (crc32 cfg d)) := by
  simp only [issueBytes, h, wireRecord]

/-- No CRC is computed where no record is built (log 14). -/
theorem issueAcc_of_none (h : cmd.req = .none) (acc : Word) (d : List Byte) : issueAcc cmd acc d = acc := by
  simp only [issueAcc, h]

/-- No CRC is computed for a raw mask (log 14). -/
theorem issueAcc_of_rawMask (h : cmd.req = .rawMask) (acc : Word) (d : List Byte) : issueAcc cmd acc d = acc := by
  simp only [issueAcc, h]

/-- A record's CRC stays in the register (R101, log 14). -/
theorem issueAcc_of_record {k : Kind} (h : cmd.req = .record k) (acc : Word) (d : List Byte) :
    issueAcc cmd acc d = crcReg d := by
  simp only [issueAcc, h]

end

/-- Settles O25: each check answers once the ones before it pass, and `need` is the body length of the catalog entry,
whose class is the opcode's. -/
theorem execChecksInOrder : Obligations.ExecChecksInOrder := by
  intro c op tr d s hw hp
  rw [exec_exec_of_idle hp]
  refine ⟨fun hclosed => ?_, fun hopen hunsupported => ?_, fun hopen hlink hperm cmd need he hneed hd => ?_⟩
  · exact ⟨_, congrArg _ (issueStep_closed hclosed c op tr d), onlyAnswers_respond s c _⟩
  · exact ⟨_, congrArg _ (issueStep_unsupported hopen hunsupported c), onlyAnswers_respond s c _⟩
  · have hbody : bodyLen s.cfg cmd = need := by
      rw [opClass_of_entry hw he] at hneed
      obtain ⟨hcls, rfl⟩ | ⟨-, hreq, rfl⟩ | ⟨-, k, hreq, rfl⟩ := hneed
      · exact bodyLen_of_none ((req_eq_none_iff cmd).mpr hcls)
      · exact bodyLen_of_rawMask hreq
      · exact bodyLen_of_record hreq
    subst hbody
    exact ⟨_, congrArg _ (issueStep_of_length_ne hopen hlink he hperm hd c), onlyAnswers_respond s c _⟩

/-- Settles O26: the issue step that passes every check is `enterWrite`, whose bytes and register follow the request
content. -/
theorem execEntersTheWritePhase : Obligations.ExecEntersTheWritePhase := by
  intro c op tr d cmd s hp hopen hlink he hperm hd
  have hop : s.cfg.op cmd = op := op_of_entry he
  refine ⟨enterWrite s c cmd op tr d, issueBytes s.cfg cmd d, ?_, rfl, rfl, fun hreq => ?_, fun hreq => ?_,
    fun k hreq => ?_, rfl, rfl, rfl, rfl, rfl, rfl, rfl, rfl, ⟨rfl, rfl, rfl, rfl, rfl⟩⟩
  · rw [exec_exec_of_idle hp, issueStep_of_length_eq hopen hlink he hperm hd]
  · exact ⟨hop ▸ issueBytes_of_none hreq d, issueAcc_of_none hreq s.crcAcc d⟩
  · exact ⟨hop ▸ issueBytes_of_rawMask hreq d, issueAcc_of_rawMask hreq s.crcAcc d⟩
  · exact ⟨hop ▸ issueBytes_of_record hreq d, issueAcc_of_record hreq s.crcAcc d⟩

/-! ### The commands as write and read commands (R206, R210) -/

/-- What a read command does with the bytes received (R211 to R213), by its response content (R130). -/
def readResult (cmd : Command) (s : State) (rx : List Byte) : State :=
  match cmd.resp with
  | .record k => s.completeRecord k rx
  | .composite => s.completeMask rx
  | .none | .byte => s.completeByte rx

section
variable {i : Instr} {cmd : Command}

/-- A record write runs its write phase with the bytes that encode it, and completes with OK (R206, R207). -/
theorem exec_of_record_write {k : Kind} (hc : i.command = some cmd) (hk : cmd.req = .record k) (s : State) :
    exec i s = writeCommand s (encodeInstr s.cfg i) id := by
  cases i with
  | setDabP | setDabV | setTunerOptP | setTunerOptV | setProcOptP | setProcOptV | setTunerReg | setSerial
  | setPwsConfig | setDfuMode | setDfuBlock => rfl
  | _ => cases hc <;> cases hk

/-- A read transmits its opcode byte (R81). -/
theorem encodeInstr_of_read (hc : i.command = some cmd) (hr : cmd.cls ≠ .write) (cfg : Config) :
    encodeInstr cfg i = [cfg.op cmd] := by
  cases i with
  | getDabP | getDabV | getTunerOptP | getTunerOptV | getProcOptP | getProcOptV | getSerial | getPwsStatus
  | getVersion | getDfuMode | getDfuAck | getMaskData | getPing => cases hc; rfl
  | _ => cases hc <;> exact absurd rfl hr

/-- A read runs its write phase with its opcode byte, and its read phase with the result of its response content
(R206, R210). -/
theorem exec_of_read (hc : i.command = some cmd) (hr : cmd.cls ≠ .write) (s : State) :
    exec i s = readCommand s [s.cfg.op cmd] (readResult cmd) := by
  cases i with
  | getDabP | getDabV | getTunerOptP | getTunerOptV | getProcOptP | getProcOptV | getSerial | getPwsStatus
  | getVersion | getDfuMode | getDfuAck | getMaskData | getPing => cases hc; rfl
  | _ => cases hc <;> exact absurd rfl hr

/-- A command with a record response is no write (R130). -/
theorem cls_ne_write_of_resp_record {k : Kind} (h : cmd.resp = .record k) : cmd.cls ≠ .write := by
  simp [cls_of_resp_record h]

/-- A record read's result is the record's (R211). -/
theorem readResult_of_record {k : Kind} (h : cmd.resp = .record k) : readResult cmd = (·.completeRecord k ·) := by
  funext s rx
  simp only [readResult, h]

/-- A result puts nothing on the transport port (R211 to R213). -/
theorem readResult_wire (cmd : Command) (s : State) (rx : List Byte) : (readResult cmd s rx).wire = s.wire := by
  unfold readResult
  split <;> rfl

end

/-! ### The write phase (R206 to R208, R214) -/

/-- The transfer of a write phase (R206). -/
def writeTransfer (s : State) (tx : List Byte) : Transfer := .tx s.seqCtx.t tx s.inputs.txCount

/-- The state of a read whose opcode byte is out (R208). -/
def beginRead (s : State) (op : Byte) : State :=
  { s.logTransfer (.tx s.seqCtx.t [op] 1) with seqPhase := .read }

section
variable {s : State} {tx : List Byte} {i : Instr} {cmd : Command}

/-- A write command in the phase WRITE takes the write-phase step (R206). -/
theorem writeCommand_of_write (hp : s.seqPhase = .write) (tx : List Byte) (done : State → State) :
    writeCommand s tx done = transmit s tx fun s1 => (done s1).complete ⟨.ok, .none⟩ := by
  simp only [writeCommand, hp]

/-- A read command in the phase WRITE takes the write-phase step (R206). -/
theorem readCommand_of_write (hp : s.seqPhase = .write) (tx : List Byte) (result : State → List Byte → State) :
    readCommand s tx result = transmit s tx enterRead := by
  simp only [readCommand, hp]

/-- In the phase WRITE every catalog command transmits the bytes that encode it (R81, R206). -/
theorem exec_of_write_phase (hc : i.command = some cmd) (hp : s.seqPhase = .write) :
    ∃ done, exec i s = transmit s (encodeInstr s.cfg i) done := by
  cases hreq : cmd.req with
  | record k => exact ⟨_, (exec_of_record_write hc hreq s).trans (writeCommand_of_write hp _ _)⟩
  | rawMask =>
    cases i with
    | setMask m => exact ⟨_, writeCommand_of_write hp _ _⟩
    | _ => cases hc <;> cases hreq
  | none =>
    have hr : cmd.cls ≠ .write := (req_eq_none_iff cmd).mp hreq
    rw [exec_of_read hc hr, encodeInstr_of_read hc hr]
    exact ⟨_, readCommand_of_write hp _ _⟩

/-- A write-phase step that transmits too few bytes (R206). -/
theorem transmit_of_count_lt (h : s.inputs.txCount < tx.length) (done : State → State) :
    transmit s tx done
      = .next ((s.logTransfer (writeTransfer s tx)).failShort .write s.inputs.txCount tx.length) := by
  rw [transmit, if_neg h.not_gt, if_pos h]
  rfl

/-- A short phase ends the transaction after its transfer (R206, R210, R243). -/
theorem ends_failShort_logTransfer (s : State) (x : Transfer) (p : XferPhase) (m n : Nat) :
    Ends ⟨.shortTransfer, .short p m n⟩ s ((s.logTransfer x).failShort p m n) :=
  ends_complete_update s true s.maskShadow s.crcAcc (x :: s.wire) _

/-- A read command whose opcode byte is out enters its read phase (R206, R208). -/
theorem readCommand_of_count_eq (hp : s.seqPhase = .write) (h : s.inputs.txCount = tx.length)
    (result : State → List Byte → State) :
    readCommand s tx result = .next (enterRead (s.logTransfer (writeTransfer s tx))) := by
  rw [readCommand_of_write hp, transmit_of_count_eq h]
  rfl

/-- A read whose opcode byte is out begins its read phase where bytes are to come (R206, R208). -/
theorem exec_of_read_entry (hc : i.command = some cmd) (hr : cmd.cls ≠ .write) (hp : s.seqPhase = .write)
    (hcount : s.inputs.txCount = 1) (hn : s.seqCtx.n ≠ 0) :
    exec i s = .next (beginRead s (s.cfg.op cmd)) := by
  rw [exec_of_read hc hr, readCommand_of_count_eq (tx := [s.cfg.op cmd]) hp hcount, writeTransfer, hcount]
  exact congrArg _ (if_neg hn)

end

/-- Settles O27: a record write is a write command that completes with nothing more to do. -/
theorem recordWritesCompleteWithOk : Obligations.RecordWritesCompleteWithOk := by
  intro i cmd k s hc hk hp hcount
  refine ⟨_, (exec_of_record_write hc hk s).trans (writeCommand_of_count_eq hp hcount id), ?_, rfl, rfl, rfl, rfl⟩
  exact ends_complete_update s s.desync s.maskShadow s.crcAcc (writeTransfer s (encodeInstr s.cfg i) :: s.wire) _

/-- Settles O29: a read is a read command of one byte, and with bytes to come it enters the read phase. -/
theorem readsEnterTheReadPhase : Obligations.ReadsEnterTheReadPhase := by
  intro i cmd s hc hr hp hcount hn
  exact ⟨_, exec_of_read_entry hc hr hp hcount hn, rfl, rfl, rfl, rfl, rfl, rfl, rfl, rfl, rfl, rfl, rfl,
    ⟨rfl, rfl, rfl, rfl, rfl⟩⟩

/-- Settles O34: whatever a command does when its bytes are out, it does not when one is missing. -/
theorem shortWritePhaseDesynchronises : Obligations.ShortWritePhaseDesynchronises := by
  intro i cmd s hc hp hshort
  obtain ⟨done, hexec⟩ := exec_of_write_phase hc hp
  rw [transmit_of_count_lt hshort] at hexec
  exact ⟨_, hexec, ends_failShort_logTransfer s _ _ _ _, rfl, rfl, rfl, rfl⟩

/-- No kind is enabled in the empty mask (R77). -/
theorem enabled_empty (cfg : Config) (c : TKind) : enabled cfg 0#8 c = false :=
  BitVec.getLsbD_zero

/-- The parser's loop does nothing for the empty mask (R181). -/
theorem parseFrom_empty (cfg : Config) (d : List Byte) (l : List TKind) (st : ParseState) :
    parseFrom cfg 0#8 d l st = st := by
  induction l with
  | nil => rfl
  | cons c cs ih => rw [parseFrom, enabled_empty, if_neg Bool.false_ne_true, ih]

/-- PARSE of no bytes under the empty mask answers no slots and computes no CRC (R181). -/
theorem parseComposite_empty (cfg : Config) (acc : Word) :
    parseComposite cfg 0#8 acc [] = (⟨.ok, .slots []⟩, acc) := by
  rw [parseComposite, parseFrom_empty]
  rfl

/-- Settles O32: the write phase's step goes on to the result of no bytes, which is PARSE under the empty mask. -/
theorem emptyMaskDataNeedsNoReadPhase : Obligations.EmptyMaskDataNeedsNoReadPhase := by
  intro s hp hn hmask hcount
  have hexec : exec .getMaskData s
      = .next ((s.logTransfer (writeTransfer s [s.cfg.op .getMaskData])).completeMask []) :=
    (readCommand_of_count_eq (tx := [s.cfg.op .getMaskData]) hp hcount _).trans (congrArg _ (if_pos hn))
  rw [writeTransfer, hcount] at hexec
  simp only [State.completeMask, State.logTransfer_cfg, State.logTransfer_seqCtx, State.logTransfer_crcAcc, hmask,
    parseComposite_empty] at hexec
  exact ⟨_, hexec, ends_complete_update s s.desync s.maskShadow s.crcAcc _ _, rfl, rfl, rfl, rfl⟩

/-! ### The read phase (R209 to R213) -/

section
variable {s : State} {i : Instr} {cmd : Command}

/-- A read command in the phase READ takes the read-phase step (R210). -/
theorem readCommand_of_read (hp : s.seqPhase = .read) (tx : List Byte) (result : State → List Byte → State) :
    readCommand s tx result = receive s result := by
  simp only [readCommand, hp]

/-- A read-phase step that delivers too few bytes (R210). -/
theorem receive_of_length_lt (h : s.inputs.rx.length < s.seqCtx.n) (result : State → List Byte → State) :
    receive s result
      = .next ((s.logTransfer (readTransfer s)).failShort .read s.inputs.rx.length s.seqCtx.n) := by
  rw [receive, if_neg h.not_gt]
  exact if_pos h

/-- A read-phase step that delivers every byte (R210). -/
theorem receive_of_length_eq (h : s.inputs.rx.length = s.seqCtx.n) (result : State → List Byte → State) :
    receive s result = .next (result (s.logTransfer (readTransfer s)) s.inputs.rx) := by
  rw [receive, if_neg h.not_gt]
  exact if_neg h.not_lt

/-- A short read phase of a read command (R210). -/
theorem exec_of_short_read (hc : i.command = some cmd) (hr : cmd.cls ≠ .write) (hp : s.seqPhase = .read)
    (h : s.inputs.rx.length < s.seqCtx.n) :
    exec i s = .next ((s.logTransfer (readTransfer s)).failShort .read s.inputs.rx.length s.seqCtx.n) := by
  rw [exec_of_read hc hr, readCommand_of_read hp, receive_of_length_lt h]

/-- A full read phase of a read command (R210). -/
theorem exec_of_full_read (hc : i.command = some cmd) (hr : cmd.cls ≠ .write) (hp : s.seqPhase = .read)
    (h : s.inputs.rx.length = s.seqCtx.n) :
    exec i s = .next (readResult cmd (s.logTransfer (readTransfer s)) s.inputs.rx) := by
  rw [exec_of_read hc hr, readCommand_of_read hp, receive_of_length_eq h]

/-- A full read phase of a record read answers what DECODE of the bytes answers (R211). -/
theorem exec_of_full_record_read {k : Kind} {r : Response} {acc : Word} (hc : i.command = some cmd)
    (hk : cmd.resp = .record k) (hp : s.seqPhase = .read) (h : s.inputs.rx.length = s.seqCtx.n)
    (hdec : decodeRecord s.cfg k s.crcAcc s.inputs.rx = (r, acc)) :
    exec i s = .next ({ s.logTransfer (readTransfer s) with crcAcc := acc }.complete r) := by
  have hr := cls_ne_write_of_resp_record hk
  rw [exec_of_full_read hc hr hp h, readResult_of_record hk]
  simp only [State.completeRecord, State.logTransfer_cfg, State.logTransfer_crcAcc, hdec]

end

/-- Settles O30: of DECODE's three cases the length excludes the first, and each of the others answers its clause. -/
theorem recordReadsAnswerWithTheRecord : Obligations.RecordReadsAnswerWithTheRecord := by
  intro i cmd k s hc hk hp hn hlen
  have hends : ∀ (acc : Word) (r : Response),
      Ends r s ({ s.logTransfer (readTransfer s) with crcAcc := acc }.complete r) := fun acc r =>
    ends_complete_update s s.desync s.maskShadow acc (readTransfer s :: s.wire) r
  have hcases := decodeRecord_cases s.cfg k s.crcAcc s.inputs.rx
  rw [hlen] at hcases
  obtain ⟨hne, -⟩ | ⟨-, hbad, hdec⟩ | ⟨-, hgood, hdec⟩ := hcases
  · exact absurd rfl hne
  · exact ⟨_, exec_of_full_record_read hc hk hp (hlen.trans hn.symm) hdec, fun hgood => absurd hgood hbad,
      fun _ => hends _ _, rfl, rfl, rfl, _, rfl⟩
  · exact ⟨_, exec_of_full_record_read hc hk hp (hlen.trans hn.symm) hdec, fun _ => hends _ _,
      fun hbad => absurd hgood hbad, rfl, rfl, rfl, _, rfl⟩

/-- PARSE of bytes of the composite's length answers OK or CHECKSUM_ERROR with the slots of the enabled kinds
(R181). -/
theorem parseComposite_of_length_eq {cfg : Config} {m : Byte} {d : List Byte} (h : d.length = compositeLen cfg m)
    (acc : Word) :
    ∃ st slots, (st = .ok ∨ st = .checksumError) ∧ (parseComposite cfg m acc d).1 = ⟨st, .slots slots⟩
      ∧ slots.map Slot.kind = TKind.all.filter (enabled cfg m) := by
  obtain ⟨hkinds, -⟩ := parsed_slots cfg m acc d
  rw [parseComposite_eq]
  obtain ⟨hok, -⟩ | ⟨hbad, -⟩ := parseResponse_of_length_eq h acc
  · exact ⟨.ok, _, .inl rfl, hok, hkinds⟩
  · exact ⟨.checksumError, _, .inr rfl, hbad, hkinds⟩

/-- Settles O31: the bytes have the composite's length, so PARSE has its two answers there. -/
theorem maskDataAnswersWithItsSlots : Obligations.MaskDataAnswersWithItsSlots := by
  intro s hp hn hlen
  obtain ⟨st, slots, hst, hparse, hkinds⟩ := parseComposite_of_length_eq (hlen.trans hn) s.crcAcc
  have hexec : exec .getMaskData s = .next ((s.logTransfer (readTransfer s)).completeMask s.inputs.rx) :=
    exec_of_full_read (cmd := .getMaskData) rfl (by decide) hp hlen
  simp only [State.completeMask, State.logTransfer_cfg, State.logTransfer_seqCtx, State.logTransfer_crcAcc,
    hparse] at hexec
  exact ⟨_, st, slots, hexec, hst, hparse, hkinds, ends_complete_update s s.desync s.maskShadow _ _ _, rfl, rfl, _,
    rfl⟩

/-- Settles O33: one byte is asked for and one arrives. -/
theorem pingAnswersWithItsByte : Obligations.PingAnswersWithItsByte := by
  intro b s hp hn hrx
  have hlen : s.inputs.rx.length = s.seqCtx.n := by rw [hrx, hn]; rfl
  have hexec : exec .getPing s = .next ((s.logTransfer (readTransfer s)).completeByte s.inputs.rx) :=
    exec_of_full_read (cmd := .getPing) rfl (by decide) hp hlen
  rw [readTransfer, hn, hrx] at hexec
  exact ⟨_, hexec, ends_complete_update s s.desync s.maskShadow s.crcAcc _ _, rfl, rfl, rfl, _, rfl⟩

/-- Settles O35: whatever a read does with its bytes, it does not when one is missing. -/
theorem shortReadPhaseDesynchronises : Obligations.ShortReadPhaseDesynchronises :=
  fun _ _ s hc hr hp hshort =>
    ⟨_, exec_of_short_read hc hr hp hshort, ends_failShort_logTransfer s _ _ _ _, rfl, rfl, rfl⟩

/-- A read phase, short or full, leaves its one transfer on the wire (R210). -/
theorem exec_of_read_phase_wire {s : State} {i : Instr} {cmd : Command} (hc : i.command = some cmd)
    (hr : cmd.cls ≠ .write) (hp : s.seqPhase = .read) (h : s.inputs.rx.length ≤ s.seqCtx.n) :
    ∃ t, exec i s = .next t ∧ t.wire = readTransfer s :: s.wire := by
  obtain hshort | hfull := h.lt_or_eq
  · exact ⟨_, exec_of_short_read hc hr hp hshort, rfl⟩
  · exact ⟨_, exec_of_full_read hc hr hp hfull, readResult_wire cmd _ _⟩

/-- On the SPI link a read phase transmits zeros (R209). -/
theorem readFill_spi (n : Nat) : readFill .spi n = List.replicate n 0#8 := rfl

/-- On the USB link a read phase transmits nothing (R209). -/
theorem readFill_usb {tr : Transport} (h : tr = .usbCtrl ∨ tr = .usbStream) (n : Nat) : readFill tr n = [] := by
  obtain rfl | rfl := h <;> rfl

/-- Settles O36: the fill of the read phase's transfer is read off its transport's link. -/
theorem readPhaseFillsOnlyOnSpi : Obligations.ReadPhaseFillsOnlyOnSpi := by
  intro i cmd s hc hr hp hlen
  obtain ⟨t, hexec, hwire⟩ := exec_of_read_phase_wire hc hr hp hlen
  exact ⟨t, _, hexec, hwire, fun hspi => by rw [hspi, readFill_spi], fun husb => readFill_usb husb _⟩

/-! ### The operations without the channel (R219) -/

/-- The state with another phase and context of the sequencer (R27, R28). -/
def State.withSequencer (s : State) (p : SeqPhase) (x : SeqCtx) : State := { s with seqPhase := p, seqCtx := x }

/-- An instruction answers a next state that keeps the sequencer, and the same one whatever the sequencer is. -/
def IgnoresSequencer (i : Instr) (s : State) : Prop :=
  ∀ p x, ∃ t, exec i s = .next t ∧ t.seqPhase = s.seqPhase ∧ t.seqCtx = s.seqCtx
    ∧ exec i (s.withSequencer p x) = .next (t.withSequencer p x)

/-- ENCODE decides by the length of its body (R105). -/
theorem ignoresSequencer_encode (c : Caller) (k : Kind) (d : List Byte) (s : State) :
    IgnoresSequencer (.encode c k d) s := by
  intro p x
  by_cases h : d.length = s.cfg.size k - 4
  · exact ⟨_, exec_encode_of_length_eq h c, rfl, rfl, exec_encode_of_length_eq (s := s.withSequencer p x) h c⟩
  · exact ⟨_, exec_encode_of_length_ne h c, rfl, rfl, exec_encode_of_length_ne (s := s.withSequencer p x) h c⟩

/-- BUILD decides by what the compositor's loop gives for the counters and the payloads (R175, R176). -/
theorem ignoresSequencer_build (c : Caller) (m : Byte) (s : State) : IgnoresSequencer (.build c m) s := by
  intro p x
  have hseq : buildComposite (s.withSequencer p x).cfg (s.withSequencer p x).cnt (s.withSequencer p x).inputs.src m
      (s.withSequencer p x).crcAcc = buildComposite s.cfg s.cnt s.inputs.src m s.crcAcc := rfl
  simp only [exec, execBuild, hseq]
  cases buildComposite s.cfg s.cnt s.inputs.src m s.crcAcc with
  | none | some => exact ⟨_, rfl, rfl, rfl, rfl⟩

/-- Settles O56: the operations of R219 but ENCODE and BUILD have one case, a response. -/
theorem nonChannelOperationsIgnoreTheSequencer : Obligations.NonChannelOperationsIgnoreTheSequencer := by
  intro i s p x hi
  cases i with
  | crc32 | decode | classify | tick | parse => exact ⟨_, rfl, rfl, rfl, rfl⟩
  | encode c k d => exact ignoresSequencer_encode c k d s p x
  | build c m => exact ignoresSequencer_build c m s p x
  | _ => cases hi

/-! ### OPEN and CLOSE (R201, R202) -/

/-- An operation that writes the channel's registers and answers (R10, R61). -/
theorem answered_respond_update (s : State) (chOpen desync : Bool) (link : Link) (c : Caller) (r : Response) :
    Answered c r s ({ s with chOpen := chOpen, chLink := link, desync := desync }.respond c r) :=
  have h := answered_respond { s with chOpen := chOpen, chLink := link, desync := desync } c r
  ⟨h.responses, h.own, h.others⟩

/-- Settles O22: OPEN takes its step on an idle channel. -/
theorem openEstablishesTheChannel : Obligations.OpenEstablishesTheChannel := fun c l s hp =>
  ⟨_, whenIdle_of_idle _ hp, rfl, rfl, rfl, answered_respond_update s true false l c _, rfl, rfl, rfl, rfl, rfl, rfl,
    ⟨rfl, rfl, rfl, rfl, rfl⟩⟩

/-- Settles O23: CLOSE takes its step on an idle channel. -/
theorem closeClosesTheChannel : Obligations.CloseClosesTheChannel := fun c s hp =>
  ⟨_, whenIdle_of_idle _ hp, rfl, rfl, answered_respond_update s false false s.chLink c _, rfl, rfl, rfl, rfl, rfl,
    rfl, rfl, ⟨rfl, rfl, rfl, rfl, rfl⟩⟩

/-! ### Whole transactions (R204 to R211) -/

/-- A run that goes on from the next state of its first step. -/
theorem run_succ {s t u : State} {n : Nat} (h : step s = .next t) (hrun : Host.Core.run core n t = .next u) :
    Host.Core.run core (n + 1) s = .next u := by
  have hstep : core.step s = .next t := h
  simpa only [Host.Core.run, hstep] using hrun

/-- The state in which a caller's request takes its step: the agenda's entry is taken (log 5). -/
def State.withAgenda (s : State) (rest : List Event) : State := { s with agenda := rest }

/-- The state in which the transport's write-phase step runs its instruction: the transport's count is presented and
the agenda's entry is taken (R206, log 5). -/
def State.presentCount (s : State) (m : Nat) (rest : List Event) : State :=
  { s with agenda := rest, inputs := { s.inputs with txCount := m } }

/-- The state in which the transport's read-phase step runs its instruction (R210, log 5). -/
def State.presentBytes (s : State) (rx : List Byte) (rest : List Event) : State :=
  { s with agenda := rest, inputs := { s.inputs with rx := rx } }

section
variable {s : State} {c : Caller} {cmd : Command} {tr : Transport} {d : List Byte} {rest : List Event}

/-- The step of a pending EXEC that passes R204's checks (R203, R205). -/
theorem step_issue_exec (hw : s.cfg.wf = true) (hp : s.seqPhase = .idle) (hopen : s.chOpen = true)
    (hlink : tr.link = s.chLink) (hcaller : callerOk s.cfg c = true) (hcap : (s.cfg.cap cmd).has tr = true)
    (hd : d.length = bodyLen s.cfg cmd)
    (hpend : s.pendingOf c = some (requestOf .exec c (s.cfg.op cmd) tr.id d)) (ha : s.agenda = .take c :: rest) :
    step s = .next (enterWrite (s.withAgenda rest) c cmd (s.cfg.op cmd) tr d) := by
  have hfetch : fetch s = .run (.exec c (s.cfg.op cmd) tr d) (s.withAgenda rest) := by
    rw [fetch_cons ha, ← decodeRequest_requestOf_exec hcaller (s.cfg.op cmd) tr d]
    exact fetchRequest_of_pending (s := s.withAgenda rest) hpend
  have hissue : issueStep c (s.cfg.op cmd) tr d (s.withAgenda rest)
      = enterWrite (s.withAgenda rest) c cmd (s.cfg.op cmd) tr d :=
    issueStep_of_length_eq (s := s.withAgenda rest) hopen hlink (entry_op hw cmd) ((permitted_op hw cmd tr).trans hcap)
      hd c
  rw [step_of_run hw hfetch, ← hissue]
  exact exec_exec_of_idle (s := s.withAgenda rest) hp c (s.cfg.op cmd) tr d

/-- The transport's steps run an instruction of the command in flight, whose encoding is its write-phase bytes (R81,
R206, R210). -/
theorem step_of_issueBytes (hw : s.cfg.wf = true) (hd : d.length = bodyLen s.cfg cmd)
    (htx : s.seqCtx.tx = issueBytes s.cfg cmd d) :
    ∃ i, i.command = some cmd ∧ encodeInstr s.cfg i = issueBytes s.cfg cmd d
      ∧ (∀ m, s.agenda = .txPhase m :: rest → s.seqPhase = .write → step s = exec i (s.presentCount m rest))
      ∧ ∀ rx, s.agenda = .rxPhase rx :: rest → s.seqPhase = .read → step s = exec i (s.presentBytes rx rest) := by
  obtain ⟨i, hi, hc, henc⟩ := decodeWire_issueBytes hw hd
  rw [← htx] at hi
  refine ⟨i, hc, henc, fun m ha hp => ?_, fun rx ha hp => ?_⟩
  · exact step_of_run hw ((fetch_cons ha).trans (fetchPhase_of_decodeWire hp (by decide) hi))
  · exact step_of_run hw ((fetch_cons ha).trans (fetchPhase_of_decodeWire hp (by decide) hi))

/-- The full write phase of a record write in flight ends its transaction with OK (R206, R207). -/
theorem step_full_record_write {k : Kind} (hw : s.cfg.wf = true) (hreq : cmd.req = .record k)
    (hd : d.length = bodyLen s.cfg cmd) (htx : s.seqCtx.tx = issueBytes s.cfg cmd d) (hp : s.seqPhase = .write)
    (ha : s.agenda = .txPhase (s.cfg.size k + 1) :: rest) :
    ∃ t, step s = .next t ∧ Ends ⟨.ok, .none⟩ (s.presentCount (s.cfg.size k + 1) rest) t ∧ t.desync = s.desync
      ∧ t.maskShadow = s.maskShadow
      ∧ t.wire = .tx s.seqCtx.t (s.cfg.op cmd :: (d ++ le32bytes (crc32 s.cfg d))) (s.cfg.size k + 1) :: s.wire := by
  obtain ⟨i, hc, henc, hstep, -⟩ := step_of_issueBytes hw hd htx
  rw [issueBytes_of_record hreq] at henc
  rw [bodyLen_of_record hreq] at hd
  have hcount : s.cfg.size k + 1 = (encodeInstr s.cfg i).length := by
    have := Config.size_ge_four hw k
    simp only [henc, List.length_cons, List.length_append, le32bytes_length]
    omega
  obtain ⟨t, hexec, hends, hdesync, hmask, -, hwire⟩ :=
    recordWritesCompleteWithOk i cmd k (s.presentCount (s.cfg.size k + 1) rest) hc hreq hp hcount
  exact ⟨t, (hstep _ ha hp).trans hexec, hends, hdesync, hmask, henc ▸ hwire⟩

/-- The full write phase of a read in flight begins its read phase (R206, R208). -/
theorem step_read_entry (hw : s.cfg.wf = true) (hr : cmd.cls ≠ .write) (hd : d.length = bodyLen s.cfg cmd)
    (htx : s.seqCtx.tx = issueBytes s.cfg cmd d) (hp : s.seqPhase = .write) (hn : s.seqCtx.n ≠ 0)
    (ha : s.agenda = .txPhase 1 :: rest) :
    step s = .next (beginRead (s.presentCount 1 rest) (s.cfg.op cmd)) := by
  obtain ⟨i, hc, -, hstep, -⟩ := step_of_issueBytes hw hd htx
  exact (hstep _ ha hp).trans (exec_of_read_entry (s := s.presentCount 1 rest) hc hr hp rfl hn)

/-- The full read phase of a record read in flight, of a body and its checksum, ends its transaction with the record
(R109, R210, R211). -/
theorem step_full_record_read {k : Kind} {body : List Byte} (hw : s.cfg.wf = true) (hresp : cmd.resp = .record k)
    (hd : d.length = bodyLen s.cfg cmd) (htx : s.seqCtx.tx = issueBytes s.cfg cmd d) (hp : s.seqPhase = .read)
    (hn : s.seqCtx.n = s.cfg.size k) (hbody : body.length = s.cfg.size k - 4)
    (ha : s.agenda = .rxPhase (encodeRecord s.cfg body) :: rest) :
    ∃ t fill, step s = .next t
      ∧ Ends ⟨.ok, .record (mkRecord k (encodeRecord s.cfg body))⟩
          (s.presentBytes (encodeRecord s.cfg body) rest) t
      ∧ t.desync = s.desync
      ∧ t.wire = .rx s.seqCtx.t (s.cfg.size k) fill (encodeRecord s.cfg body) :: s.wire := by
  obtain ⟨i, hc, -, -, hstep⟩ := step_of_issueBytes hw hd htx
  have hsize : body.length + 4 = s.cfg.size k := by
    rw [hbody, Nat.sub_add_cancel (Config.size_ge_four hw k)]
  have hlen : (encodeRecord s.cfg body).length = s.seqCtx.n := by rw [encodeRecord_length, hsize, hn]
  have hexec := exec_of_full_record_read (s := s.presentBytes (encodeRecord s.cfg body) rest) hc hresp hp hlen
    (decodeRecord_encodeRecord k s.crcAcc hsize)
  rw [← hn]
  exact ⟨_, _, (hstep _ ha hp).trans hexec,
    ends_complete_update (s.presentBytes (encodeRecord s.cfg body) rest) s.desync s.maskShadow _ (_ :: s.wire) _, rfl,
    rfl⟩

/-- A record read in flight with both its phases full answers the record of the bytes received (R206 to R211). -/
theorem run_full_record_read {k : Kind} {body : List Byte} (hw : s.cfg.wf = true) (hresp : cmd.resp = .record k)
    (hd : d.length = bodyLen s.cfg cmd) (htx : s.seqCtx.tx = issueBytes s.cfg cmd d) (hp : s.seqPhase = .write)
    (hn : s.seqCtx.n = s.cfg.size k) (hbody : body.length = s.cfg.size k - 4)
    (ha : s.agenda = .txPhase 1 :: .rxPhase (encodeRecord s.cfg body) :: rest) :
    ∃ t fill, Host.Core.run core 2 s = .next t
      ∧ t.responses = (s.seqCtx.owner, ⟨.ok, .record (mkRecord k (encodeRecord s.cfg body))⟩) :: s.responses
      ∧ t.wire = .rx s.seqCtx.t (s.cfg.size k) fill (encodeRecord s.cfg body)
          :: .tx s.seqCtx.t [s.cfg.op cmd] 1 :: s.wire
      ∧ t.pendingOf s.seqCtx.owner = none ∧ t.seqPhase = .idle ∧ t.desync = s.desync ∧ t.agenda = rest := by
  have hr := cls_ne_write_of_resp_record hresp
  have hn0 : s.seqCtx.n ≠ 0 := by
    have := Config.size_ge_four hw k
    omega
  have hentry := step_read_entry hw hr hd htx hp hn0 ha
  obtain ⟨t, fill, hread, hends, hdesync, hwire⟩ :=
    step_full_record_read
      (s := beginRead (s.presentCount 1 (.rxPhase (encodeRecord s.cfg body) :: rest)) (s.cfg.op cmd))
      hw hresp hd htx rfl hn hbody rfl
  exact ⟨t, fill, run_succ hentry (run_succ hread rfl), hends.answered.responses, hwire, hends.answered.own,
    hends.idle, hdesync, hends.run.agenda⟩

end

/-- Settles O59: the issue step, then the full write phase. -/
theorem recordWriteTransactionRuns : Obligations.RecordWriteTransactionRuns := by
  intro s c tr cmd k d rest hinv hp hopen hlink hcaller hreq hcap hlen hpend ha
  have hd : d.length = bodyLen s.cfg cmd := hlen.trans (bodyLen_of_record hreq).symm
  have hissue := step_issue_exec hinv.cfg hp hopen hlink hcaller hcap hd hpend ha
  obtain ⟨t, hwrite, hends, hdesync, hmask, hwire⟩ :=
    step_full_record_write
      (s := enterWrite (s.withAgenda (.txPhase (s.cfg.size k + 1) :: rest)) c cmd (s.cfg.op cmd) tr d)
      hinv.cfg hreq hd rfl rfl rfl
  exact ⟨t, run_succ hissue (run_succ hwrite rfl), hends.answered.responses, hwire, hends.answered.own, hends.idle,
    hdesync, hmask, hends.run.agenda⟩

/-- Settles O60: the issue step, then the opcode byte's write phase and the full read phase. -/
theorem recordReadTransactionRuns : Obligations.RecordReadTransactionRuns := by
  intro s c tr cmd k body rest hinv hp hopen hlink hcaller hresp hcap hbody hpend ha
  have hw := hinv.cfg
  have hd : ([] : List Byte).length = bodyLen s.cfg cmd :=
    (bodyLen_of_none ((req_eq_none_iff cmd).mpr (cls_ne_write_of_resp_record hresp))).symm
  have hn : respLen s.cfg (s.cfg.op cmd) s.maskShadow = s.cfg.size k :=
    respLen_of_rread ((Config.opClass_op hw cmd).trans (cls_of_resp_record hresp)) (entry_op hw cmd) hresp _
  have hissue := step_issue_exec hw hp hopen hlink hcaller hcap hd hpend ha
  obtain ⟨t, fill, hrun, hresponse, hwire, hpending, hidle, hdesync, hrest⟩ :=
    run_full_record_read
      (s := enterWrite (s.withAgenda (.txPhase 1 :: .rxPhase (encodeRecord s.cfg body) :: rest)) c cmd (s.cfg.op cmd)
        tr [])
      hw hresp hd rfl rfl hn hbody rfl
  exact ⟨t, _, fill, run_succ hissue hrun, hresponse, rfl, mkRecord_encodeRecord_body k body, hwire, hpending, hidle,
    hdesync, hrest⟩

end Sys2Proof.Machine

/-! ## The exceptions' statements (60_exceptions.md): no stop in a reachable state (O50), and what an error response
leaves behind (O55) -/

namespace Sys2Proof.Machine

/-! ### No stop in a reachable state (R251, R13) -/

section
variable {s : State} {i : Instr} {c : Caller} {rest : List Event}

/-- A channel operation answers a next state in every phase the sequencer has (R62): it goes on or it holds. -/
theorem whenIdle_is_next (hp : s.seqPhase ≠ .reserved3) (go : State) : ∃ t, whenIdle s go = .next t := by
  cases h : s.seqPhase with
  | idle => exact ⟨_, whenIdle_of_idle go h⟩
  | write => exact ⟨_, whenIdle_of_inFlight go (.inl h)⟩
  | read => exact ⟨_, whenIdle_of_inFlight go (.inr h)⟩
  | reserved3 => exact absurd h hp

/-- Every operation of the request port answers a next state (R251): those without the channel in every state (R219),
OPEN, CLOSE and EXEC under the exclusion, an illegal request as a refusal (log 8). -/
theorem exec_of_asker_is_next (ha : i.asker = some c) (hp : s.seqPhase ≠ .reserved3) : ∃ t, exec i s = .next t := by
  have hfree (h : i.nonChannel = true) : ∃ t, exec i s = .next t := by
    obtain ⟨t, hexec, -⟩ := nonChannelOperationsIgnoreTheSequencer i s s.seqPhase s.seqCtx h
    exact ⟨t, hexec⟩
  cases i with
  | crc32 | encode | decode | classify | tick | build | parse => exact hfree rfl
  | openChannel | closeChannel | exec => exact whenIdle_is_next hp _
  | illegalRequest => exact ⟨_, rfl⟩
  | _ => cases ha

/-- A write phase of no more bytes than asked for answers a next state (R206). -/
theorem transmit_is_next {tx : List Byte} (h : s.inputs.txCount ≤ tx.length) (done : State → State) :
    ∃ t, transmit s tx done = .next t := by
  obtain h | h := h.lt_or_eq
  · exact ⟨_, transmit_of_count_lt h done⟩
  · exact ⟨_, transmit_of_count_eq h done⟩

/-- A read phase of no more bytes than asked for answers a next state (R210). -/
theorem receive_is_next (h : s.inputs.rx.length ≤ s.seqCtx.n) (result : State → List Byte → State) :
    ∃ t, receive s result = .next t := by
  obtain h | h := h.lt_or_eq
  · exact ⟨_, receive_of_length_lt h result⟩
  · exact ⟨_, receive_of_length_eq h result⟩

/-- An agenda's entry that runs no instruction is a safe step (log 5). -/
theorem safeStep_of_quiet {s1 : State} (hw : s.cfg.wf = true) (h : fetch s = .quiet s1) : SafeStep s :=
  ⟨s1, by rw [step_eq hw, h]⟩

/-- A caller with no pending request has no step to take (R59, log 5). -/
theorem fetchRequest_of_not_pending (h : s.pendingOf c = none) : fetchRequest s c = .quiet s := by
  rw [fetchRequest, h]

/-- The transport has no step to take outside its phase (R206, R210). -/
theorem fetchPhase_of_ne {s1 : State} {p : SeqPhase} (h3 : s.seqPhase ≠ .reserved3) (hp : s.seqPhase ≠ p) :
    fetchPhase s p s1 = .quiet s := by
  rw [fetchPhase, if_neg h3, if_neg hp]

/-- A caller's step is safe: it runs an operation of the request port, or none is pending (R59). -/
theorem safeStep_take (h : Inv s) (ha : s.agenda = .take c :: rest) : SafeStep s := by
  cases hq : s.pendingOf c with
  | none => exact safeStep_of_quiet h.cfg ((fetch_cons ha).trans (fetchRequest_of_not_pending hq))
  | some r =>
    obtain ⟨t, hexec⟩ := exec_of_asker_is_next (s := s.withAgenda rest) (asker_decodeRequest s.cfg r) h.phase
    exact ⟨t, (step_of_run h.cfg ((fetch_cons ha).trans (fetchRequest_of_pending hq))).trans hexec⟩

/-- The transport's write-phase step within its contract is safe (R13, R206): the bytes in flight are those that encode
the instruction it runs, so the contract bounds the count. -/
theorem safeStep_txPhase {m : Nat} (h : Inv s) (ha : s.agenda = .txPhase m :: rest)
    (hm : m ≤ s.seqCtx.tx.length) : SafeStep s := by
  by_cases hp : s.seqPhase = .write
  · obtain ⟨cmd, d, hf⟩ := h.inFlight (by simp [hp])
    obtain ⟨i, hc, henc, hstep, -⟩ := step_of_issueBytes (rest := rest) h.cfg hf.body hf.tx
    obtain ⟨done, hexec⟩ := exec_of_write_phase (s := s.presentCount m rest) hc hp
    have hcount : m ≤ (encodeInstr s.cfg i).length := by rwa [henc, ← hf.tx]
    obtain ⟨t, ht⟩ := transmit_is_next (s := s.presentCount m rest) hcount done
    exact ⟨t, ((hstep m ha hp).trans hexec).trans ht⟩
  · exact safeStep_of_quiet h.cfg ((fetch_cons ha).trans (fetchPhase_of_ne h.phase hp))

/-- The transport's read-phase step within its contract is safe (R13, R210): only a read is in the phase READ. -/
theorem safeStep_rxPhase {rx : List Byte} (h : Inv s) (ha : s.agenda = .rxPhase rx :: rest)
    (hrx : rx.length ≤ s.seqCtx.n) : SafeStep s := by
  by_cases hp : s.seqPhase = .read
  · obtain ⟨cmd, d, hf⟩ := h.inFlight (by simp [hp])
    obtain ⟨i, hc, -, -, hstep⟩ := step_of_issueBytes (rest := rest) h.cfg hf.body hf.tx
    obtain ⟨hcls, -⟩ := h.reading hp
    have hr : cmd.cls ≠ .write := (hf.cls_eq h.cfg).symm.trans_ne hcls
    obtain ⟨t, ht⟩ := receive_is_next (s := s.presentBytes rx rest) hrx (readResult cmd)
    have hexec : exec i (s.presentBytes rx rest) = .next t := by
      rw [exec_of_read hc hr, readCommand_of_read (s := s.presentBytes rx rest) hp, ht]
    exact ⟨t, (hstep rx ha hp).trans hexec⟩
  · exact safeStep_of_quiet h.cfg ((fetch_cons ha).trans (fetchPhase_of_ne h.phase hp))

end

/-- Settles O50: by the agenda's next entry, of which a caller's step and the transport's steps alone run an
instruction. -/
theorem invariantStatesStep : Obligations.InvariantStatesStep := by
  intro s h hcontract
  obtain ⟨htx, hrx⟩ := hcontract
  cases ha : s.agenda with
  | nil => exact safeStep_of_quiet (s1 := s) h.cfg (by rw [fetch, ha])
  | cons e rest =>
    cases e with
    | issue | sample | reset => exact safeStep_of_quiet h.cfg (fetch_cons ha)
    | take c => exact safeStep_take h ha
    | txPhase m => exact safeStep_txPhase h ha (htx m rest ha)
    | rxPhase rx => exact safeStep_rxPhase h ha (hrx rx rest ha)

/-! ### What an error response leaves behind (R251, R31) -/

/-- What every error response leaves as it was, and what it does to `S.DESYNC` (R25, R31, R251). -/
structure ErrorLeaves (c : Caller) (r : Response) (s t : State) : Prop where
  cnt : t.cnt = s.cnt
  chOpen : t.chOpen = s.chOpen
  chLink : t.chLink = s.chLink
  seqCtx : t.seqCtx = s.seqCtx
  maskShadow : t.maskShadow = s.maskShadow
  cfg : t.cfg = s.cfg
  refusedRun : t.refusedRun = s.refusedRun
  own : t.pendingOf c = none
  others : ∀ c', c' ≠ c → t.pendingOf c' = s.pendingOf c'
  short : r.status = .shortTransfer → t.desync = true ∧ t.seqPhase = .idle
  desync : r.status ≠ .shortTransfer → t.desync = s.desync

/-- An operation that only answers leaves what an error leaves, where it answers no short transfer (R61). -/
theorem OnlyAnswers.errorLeaves {c : Caller} {r : Response} {acc : Word} {s t : State} (h : OnlyAnswers c r acc s t)
    (hs : r.status ≠ .shortTransfer) : ErrorLeaves c r s t where
  cnt := h.cnt
  chOpen := h.channel.chOpen
  chLink := h.channel.chLink
  seqCtx := h.channel.seqCtx
  maskShadow := h.channel.maskShadow
  cfg := h.run.cfg
  refusedRun := h.run.refusedRun
  own := h.answered.own
  others := h.answered.others
  short h' := absurd h' hs
  desync _ := h.channel.desync

/-- The end of a transaction that keeps the mask shadow leaves what an error leaves, where `S.DESYNC` follows its status
(R206, R210, R211). -/
theorem Ends.errorLeaves {r : Response} {s t : State} (h : Ends r s t) (hmask : t.maskShadow = s.maskShadow)
    (hshort : r.status = .shortTransfer → t.desync = true) (hd : r.status ≠ .shortTransfer → t.desync = s.desync) :
    ErrorLeaves s.seqCtx.owner r s t where
  cnt := h.cnt
  chOpen := h.chOpen
  chLink := h.chLink
  seqCtx := h.seqCtx
  maskShadow := hmask
  cfg := h.run.cfg
  refusedRun := h.run.refusedRun
  own := h.answered.own
  others := h.answered.others
  short h' := ⟨hshort h', h.idle⟩
  desync := hd

/-- What follows of the phase after an error of the instruction `i` (R61, R204, R219, R251, log 28): an operation of the
request port keeps it, and only those without the channel answer outside IDLE; a transport step ends the transaction. -/
inductive ErrorPhase (i : Instr) (s t : State) : Prop where
  | asked : i.asker.isSome = true → i.nonChannel = true ∨ s.seqPhase = .idle → t.seqPhase = s.seqPhase →
      ErrorPhase i s t
  | ended : i.asker = none → t.seqPhase = .idle → ErrorPhase i s t

/-- An instruction that answers with an error answers its asker and changes no more than the CRC register, or ends the
transaction in flight. -/
theorem effect_error {i : Instr} {s t : State} {c : Caller} {r : Response} (he : Effect i s t)
    (hr : t.responses = (c, r) :: s.responses) (hne : r.status ≠ .ok) : ErrorLeaves c r s t ∧ ErrorPhase i s t := by
  cases he with
  | refuses | holds | issues | enters => exact absurd hr.symm (List.cons_ne_self _ _)
  | ticks | opens | closes | masks => cases hr; exact absurd rfl hne
  | answers c' r' acc ha hk hs =>
    cases hr
    exact ⟨(onlyAnswers_respond_withCrcAcc s c r acc).errorLeaves hs, .asked (by rw [ha]; rfl) hk rfl⟩
  | short x p m n ha =>
    cases hr
    exact ⟨(ends_failShort_logTransfer s x p m n).errorLeaves rfl (fun _ => rfl) (absurd rfl), .ended ha rfl⟩
  | finishes x acc r' ha hs =>
    cases hr
    have h := ends_complete_update s s.desync s.maskShadow acc (x :: s.wire) r
    exact ⟨h.errorLeaves rfl (absurd · hs) fun _ => rfl, .ended ha rfl⟩
  | rejects r' ha hs =>
    cases hr
    exact ⟨(ends_complete s r).errorLeaves rfl (absurd · hs) fun _ => rfl, .ended ha rfl⟩

/-- The agenda and the inputs are no part of what an error leaves. -/
theorem ErrorLeaves.of_present {c : Caller} {r : Response} {s t : State} {rest : List Event} {inputs : Inputs}
    (h : ErrorLeaves c r { s with agenda := rest, inputs := inputs } t) : ErrorLeaves c r s t :=
  ⟨h.cnt, h.chOpen, h.chLink, h.seqCtx, h.maskShadow, h.cfg, h.refusedRun, h.own, h.others, h.short, h.desync⟩

/-- The steps that answer with an error: a caller's, whose request keeps the phase, and the transport's, which end in
IDLE. -/
inductive ErrorStep (s t : State) : Prop where
  | taken (a : Caller) (rest : List Event) (q : Request) : s.agenda = .take a :: rest → s.pendingOf a = some q →
      (decodeRequest s.cfg q).nonChannel = true ∨ s.seqPhase = .idle → t.seqPhase = s.seqPhase → ErrorStep s t
  | transported : (∀ a rest, s.agenda ≠ .take a :: rest) → t.seqPhase = .idle → ErrorStep s t

/-- A request's operation that answers with an error keeps the phase (R61, R219). -/
theorem ErrorPhase.of_request {cfg : Config} {q : Request} {s t : State} (h : ErrorPhase (decodeRequest cfg q) s t) :
    ((decodeRequest cfg q).nonChannel = true ∨ s.seqPhase = .idle) ∧ t.seqPhase = s.seqPhase := by
  cases h with
  | asked _ hk hp => exact ⟨hk, hp⟩
  | ended ha => cases (asker_decodeRequest cfg q).symm.trans ha

/-- A command that answers with an error ends its transaction (R206, R210). -/
theorem ErrorPhase.of_wire {cfg : Config} {bs : List Byte} {i : Instr} {s t : State} (h : ErrorPhase i s t)
    (hi : decodeWire cfg bs = .ok i) : t.seqPhase = .idle := by
  cases h with
  | asked ha => simp [asker_decodeWire hi] at ha
  | ended _ hp => exact hp

/-- A step that answers with an error runs an instruction that does. -/
theorem stepCase_error {s t : State} {c : Caller} {r : Response} (hc : StepCase s t)
    (hr : t.responses = (c, r) :: s.responses) (hne : r.status ≠ .ok) : ErrorLeaves c r s t ∧ ErrorStep s t := by
  cases hc with
  | waits | issue | sample | reset | skips => simp at hr
  | runs a q rest ha hq he =>
    obtain ⟨hl, hph⟩ := effect_error he hr hne
    exact ⟨hl.of_present, .taken a rest q ha hq hph.of_request.1 hph.of_request.2⟩
  | writes _ _ _ ha _ hi _ he | reads _ _ _ ha _ hi _ he =>
    obtain ⟨hl, hph⟩ := effect_error he hr hne
    exact ⟨hl.of_present, .transported (by simp [ha]) (hph.of_wire hi)⟩

/-- Settles O55: the frame is `ErrorLeaves`, and the phase is read off the kind of the agenda's entry; an EXEC uses the
channel, so it answers in the phase IDLE only. -/
theorem errorsLeaveOnlyDesync : Obligations.ErrorsLeaveOnlyDesync := by
  intro s t c r hs hr hne
  obtain ⟨hl, hstep⟩ := stepCase_error (step_cases hs) hr hne
  refine ⟨hl.cnt, hl.chOpen, hl.chLink, hl.seqCtx, hl.maskShadow, hl.cfg, hl.refusedRun, hl.own, hl.others, hl.short,
    hl.desync, ?_⟩
  cases hstep with
  | taken a rest q ha hq hk hp =>
    refine ⟨fun _ _ _ => hp, fun a' rest' q' op tr d ha' hq' hi => ?_, by simp [ha], by simp [ha]⟩
    cases ha.symm.trans ha'
    cases hq.symm.trans hq'
    rw [hi] at hk
    exact hp.trans (hk.resolve_left Bool.false_ne_true)
  | transported hno hp =>
    exact ⟨fun a rest ha => absurd ha (hno a rest), fun _ _ _ _ _ _ _ _ _ => hp, fun _ _ _ => hp, fun _ _ _ => hp⟩

end Sys2Proof.Machine

/-! ## The reset statement (70_reset_and_hazards.md): the RESET event (O42) -/

namespace Sys2Proof.Machine

/-- The step of RESET: the agenda's entry goes, and the table of R36 is applied (R270, log 5). -/
theorem step_reset {s : State} {rest : List Event} (hw : s.cfg.wf = true) (ha : s.agenda = .reset :: rest) :
    step s = .next { s with agenda := rest }.takeReset := by
  rw [step_eq hw, fetch_cons ha]
  rfl

/-- Every counter holds `CNT_RESET` after RESET (R23, R36). -/
theorem counter_takeReset (s : State) (k : TKind) : s.takeReset.counter k = Config.cntReset := by
  simp [State.counter]

/-- Settles O42: RESET is one step, and of each element the lemmas about `takeReset` say whether it is fixed or kept. -/
theorem resetEventAppliesTheTable : Obligations.ResetEventAppliesTheTable := by
  intro s rest hw ha
  exact ⟨_, step_reset hw ha, counter_takeReset _, State.takeReset_chOpen _, State.takeReset_desync _,
    State.takeReset_seqPhase _, State.takeReset_maskShadow _, pendingOf_takeReset _, State.takeReset_responses _,
    State.takeReset_wire _, State.takeReset_cfg _, State.takeReset_inputs _, State.takeReset_refusedRun _,
    State.takeReset_agenda _⟩

end Sys2Proof.Machine

/-! ## The Frame Codec's and the catalog's derived statements (40_crc_codec.md, 41_dispatch.md): the algebra of the CRC
(O3), ENCODE and DECODE together (O6, O7), and the opcode convention (O11) -/

namespace Sys2Proof.Machine

/-! ### The residue of the CRC (R101, R103) -/

/-- A shift of a register whose top bit is clear is a shift alone (R101). -/
theorem crcShift_of_top_clear {acc : Word} (h : acc.getLsbD 31 = false) : crcShift acc = acc <<< 1 :=
  if_neg (by rw [h]; exact Bool.false_ne_true)

/-- Shifts of a register whose top bits are clear are a shift alone (R101): the polynomial never enters. -/
theorem crcShifts_of_top_clear (n : Nat) {acc : Word} (h : ∀ i, i < 32 → 32 ≤ i + n → acc.getLsbD i = false) :
    crcShifts n acc = acc <<< n := by
  induction n generalizing acc with
  | zero => rw [BitVec.shiftLeft_zero]; rfl
  | succ n ih =>
    have htop : acc.getLsbD 31 = false := h 31 (by omega) (by omega)
    have hrest : ∀ i, i < 32 → 32 ≤ i + n → (acc <<< 1).getLsbD i = false := fun i hi hn => by
      rw [BitVec.getLsbD_shiftLeft, h (i - 1) (by omega) (by omega), Bool.and_false]
    calc crcShifts (n + 1) acc = crcShifts n (acc <<< 1) := by rw [crcShifts, crcShift_of_top_clear htop]
      _ = acc <<< 1 <<< n := ih hrest
      _ = acc <<< (n + 1) := by rw [← BitVec.shiftLeft_add, Nat.add_comm]

/-- The register's own next byte cancels its top byte, and eight shifts move the rest up (R101). -/
theorem crcByte_own_byte (v : Word) {n : Nat} (hn : n ≤ 24) :
    crcByte (v <<< n) (v.extractLsb' (24 - n) 8) = v <<< (n + 8) := by
  have hclear : ∀ i, i < 32 → 32 ≤ i + 8 →
      (v <<< n ^^^ ((v.extractLsb' (24 - n) 8).zeroExtend 32 <<< 24)).getLsbD i = false := fun i hi h8 => by
    have hbit : 24 - n + (i - 24) = i - n := by omega
    simp only [BitVec.getLsbD_xor, BitVec.getLsbD_shiftLeft, BitVec.getLsbD_setWidth, BitVec.getLsbD_extractLsb', hi,
      hbit, show ¬ i < 24 by omega, show ¬ i < n by omega, show i - 24 < 8 by omega, show i - 24 < 32 by omega,
      decide_true, decide_false, Bool.not_false, Bool.true_and, Bool.xor_self]
  have hzero : ((v.extractLsb' (24 - n) 8).zeroExtend 32 : Word) <<< 24 <<< 8 = 0#32 := by
    rw [← BitVec.shiftLeft_add, BitVec.shiftLeft_eq_zero (by omega)]
  rw [crcByte, crcShifts_of_top_clear 8 hclear, BitVec.shiftLeft_xor_distrib, hzero, BitVec.xor_zero,
    ← BitVec.shiftLeft_add]

/-- A register's value appended in big-endian order leaves the register at zero (R103). -/
theorem crcReg_append_big_endian (b : List Byte) :
    crcReg (b ++ [(crcReg b).extractLsb' 24 8, (crcReg b).extractLsb' 16 8, (crcReg b).extractLsb' 8 8,
      (crcReg b).extractLsb' 0 8]) = 0#32 := by
  have h0 := crcByte_own_byte (crcReg b) (n := 0) (by omega)
  have h8 := crcByte_own_byte (crcReg b) (n := 8) (by omega)
  have h16 := crcByte_own_byte (crcReg b) (n := 16) (by omega)
  have h24 := crcByte_own_byte (crcReg b) (n := 24) (by omega)
  rw [BitVec.shiftLeft_zero] at h0
  simp only [crcReg_append, List.foldl_cons, List.foldl_nil, h0, h8, h16, h24]
  exact BitVec.shiftLeft_eq_zero (by omega)

/-- The register after the record of V-CRC-15: its trailer is the little-endian checksum of the body (R103). -/
theorem crcReg_little_endian_trailer :
    crcReg ([0x01#8, 0x02#8, 0x03#8, 0x04#8] ++ le32bytes (crcReg [0x01#8, 0x02#8, 0x03#8, 0x04#8]))
      = 0x69D4E1E8#32 := by
  decide +kernel

/-! ### One flipped bit (R103, R110) -/

section
variable {b : List Byte} {i j : Nat}

@[simp] theorem flipBit_length (b : List Byte) (i j : Nat) : (flipBit b i j).length = b.length :=
  List.length_set

theorem flipBit_append_left (a : List Byte) (hi : i < b.length) (j : Nat) :
    flipBit (b ++ a) i j = flipBit b i j ++ a := by
  rw [flipBit, byteAt_append_left a hi, List.set_append_left _ _ hi, flipBit]

theorem flipBit_append_right (a : List Byte) (i j : Nat) :
    flipBit (b ++ a) (b.length + i) j = b ++ flipBit a i j := by
  rw [flipBit, byteAt_append_right, List.set_append_right _ _ (Nat.le_add_right _ _), Nat.add_sub_cancel_left, flipBit]

/-- A byte with a bit flipped is another byte. -/
theorem xor_bit_ne_self (x : Byte) (hj : j < 8) : x ^^^ (1#8 <<< j) ≠ x := by
  intro h
  have hbit : (x ^^^ (1#8 <<< j)).getLsbD j = x.getLsbD j := congrArg (BitVec.getLsbD · j) h
  simp [hj] at hbit

theorem getElem_flipBit_self (hi : i < b.length) (j : Nat) :
    (flipBit b i j)[i]'(by simpa using hi) = byteAt b i ^^^ (1#8 <<< j) :=
  List.getElem_set_self _

theorem byteAt_eq_getElem (hi : i < b.length) : byteAt b i = b[i] :=
  (List.getElem_eq_getD 0#8).symm

/-- A string with a bit flipped is another string. -/
theorem flipBit_ne_self (hi : i < b.length) (hj : j < 8) : flipBit b i j ≠ b := by
  intro h
  have hbyte := getElem_flipBit_self hi j
  simp only [h, byteAt_eq_getElem hi] at hbyte
  exact xor_bit_ne_self b[i] hj hbyte.symm

/-- A byte written over another that leaves the register as it was is the byte that stood there (R101). -/
theorem crcReg_set_injective {x : Byte} (hi : i < b.length) (h : crcReg (b.set i x) = crcReg b) : x = b[i] := by
  have hb : b = b.take i ++ b[i] :: b.drop (i + 1) := by
    rw [← List.drop_eq_getElem_cons hi, List.take_append_drop]
  rw [List.set_eq_take_append_cons_drop, if_pos hi] at h
  conv at h => rhs; rw [hb]
  rw [crcReg_append, crcReg_append, List.foldl_cons, List.foldl_cons] at h
  exact crcByte_injective_byte (foldl_crcByte_injective _ h)

/-- Every change of one bit changes the checksum (R103). -/
theorem crc32_flipBit_ne (cfg : Config) (hi : i < b.length) (hj : j < 8) :
    crc32 cfg (flipBit b i j) ≠ crc32 cfg b := by
  intro h
  have hreg : crcReg (flipBit b i j) = crcReg b := (BitVec.xor_left_inj (z := cfg.crcXorOut)).mp h
  have hbyte := crcReg_set_injective hi hreg
  rw [byteAt_eq_getElem hi] at hbyte
  exact xor_bit_ne_self b[i] hj hbyte

end

/-- Settles O3: each appended byte cancels the register's top byte, and the register loses no byte it takes in. -/
theorem crcAlgebraicProperties : Obligations.CrcAlgebraicProperties := by
  intro cfg b
  refine ⟨fun h0 => ?_, fun i j hi hj => crc32_flipBit_ne cfg hi hj⟩
  simp only [encodeRecord, crc32_of_xorOut_zero h0]
  exact ⟨rfl, crcReg_append_big_endian b, crcReg_little_endian_trailer⟩

/-! ### ENCODE and DECODE together (R109, R110) -/

section
variable {cfg : Config} {k : Kind} {d : List Byte}

/-- The trailer of a body and a word matches exactly where the word is the body's checksum (R106). -/
theorem trailerMatches_append_iff (cfg : Config) (body : List Byte) (v : Word) :
    trailerMatches cfg (body ++ le32bytes v) ↔ crc32 cfg body = v := by
  have hlen : (body ++ le32bytes v).length - 4 = body.length := by simp
  rw [trailerMatches, hlen, memRead_append_left, le32_trailer]

/-- The trailer of a record matches (R105, R106). -/
theorem trailerMatches_encodeRecord (cfg : Config) (body : List Byte) : trailerMatches cfg (encodeRecord cfg body) :=
  (trailerMatches_append_iff cfg body _).mpr rfl

/-- Four bytes are the little-endian bytes of a word (R9). -/
theorem exists_le32bytes_eq {a : List Byte} (h : a.length = 4) : ∃ v, le32bytes v = a :=
  ⟨le32 a 0, le32bytes_le32_drop (n := 0) h⟩

/-- The trailer of a record with a bit flipped does not match (R110): a flip in the body changes the checksum
computed, a flip in the trailer the checksum received. -/
theorem not_trailerMatches_flipBit (cfg : Config) {body : List Byte} {i j : Nat}
    (hi : i < (encodeRecord cfg body).length) (hj : j < 8) :
    ¬ trailerMatches cfg (flipBit (encodeRecord cfg body) i j) := by
  rw [encodeRecord_length] at hi
  obtain hbody | htrailer := lt_or_ge i body.length
  · rw [encodeRecord, flipBit_append_left _ hbody, trailerMatches_append_iff]
    exact crc32_flipBit_ne cfg hbody hj
  · obtain ⟨n, rfl⟩ := Nat.exists_eq_add_of_le htrailer
    have hn : n < (le32bytes (crc32 cfg body)).length := by rw [le32bytes_length]; omega
    obtain ⟨v, hv⟩ := exists_le32bytes_eq (a := flipBit (le32bytes (crc32 cfg body)) n j) (by simp)
    rw [encodeRecord, flipBit_append_right, ← hv, trailerMatches_append_iff]
    rintro rfl
    exact flipBit_ne_self hn hj hv.symm

/-- ENCODE answers OK only for a body of its kind's length, and then with its record (R105). -/
theorem encode_answers_bytes {c : Caller} {s t : State} {out : List Byte} (h : exec (.encode c k d) s = .next t)
    (hr : t.responses = (c, ⟨.ok, .bytes out⟩) :: s.responses) :
    d.length = s.cfg.size k - 4 ∧ out = encodeRecord s.cfg d ∧ t.cfg = s.cfg := by
  by_cases hl : d.length = s.cfg.size k - 4
  · cases (exec_encode_of_length_eq hl c).symm.trans h
    rw [State.respond_responses] at hr
    cases hr
    exact ⟨hl, rfl, rfl⟩
  · cases (exec_encode_of_length_ne hl c).symm.trans h
    rw [State.respond_responses] at hr
    cases hr

/-- DECODE of bytes of the kind's size whose trailer does not match answers CHECKSUM_ERROR (R107). -/
theorem decodeRecord_of_not_trailerMatches (hl : d.length = cfg.size k) (h : ¬ trailerMatches cfg d) (acc : Word) :
    ∃ x y acc', decodeRecord cfg k acc d = (⟨.checksumError, .checksums x y⟩, acc') := by
  obtain ⟨hne, -⟩ | ⟨-, -, e⟩ | ⟨-, hmatch, -⟩ := decodeRecord_cases cfg k acc d
  · exact absurd hl hne
  · exact ⟨_, _, _, e⟩
  · exact absurd hmatch h

end

/-- Settles O6: DECODE of a record finds the body and the trailer ENCODE put there. -/
theorem decodeOfEncodedRecordGivesBody : Obligations.DecodeOfEncodedRecordGivesBody := by
  intro c c' k d s hw hl
  have hsize : d.length + 4 = s.cfg.size k := by rw [hl, Nat.sub_add_cancel (Config.size_ge_four hw k)]
  refine ⟨_, encodeRecord s.cfg d, exec_encode_of_length_eq hl c, rfl, ?_⟩
  obtain ⟨u, hexec, hanswers⟩ :=
    exec_decode_onlyAnswers (s := { s with crcAcc := crcReg d }.respond c ⟨.ok, .bytes (encodeRecord s.cfg d)⟩)
      (decodeRecord_encodeRecord (cfg := s.cfg) k (crcReg d) hsize) c'
  exact ⟨u, mkRecord k (encodeRecord s.cfg d), hexec, hanswers.answered.responses, rfl,
    mkRecord_encodeRecord_body k d, mkRecord_encodeRecord_trailer k d⟩

/-- Settles O7: the flipped record has its kind's size, and its trailer does not match. -/
theorem oneFlippedBitFailsDecode : Obligations.OneFlippedBitFailsDecode := by
  intro c c' k d rbytes s t i j hw hencode hr hi hj
  obtain ⟨hl, rfl, hcfg⟩ := encode_answers_bytes hencode hr
  have hsize : (flipBit (encodeRecord s.cfg d) i j).length = t.cfg.size k := by
    rw [flipBit_length, encodeRecord_length_eq_size hw hl, hcfg]
  have hbad : ¬ trailerMatches t.cfg (flipBit (encodeRecord s.cfg d) i j) := by
    rw [hcfg]
    exact not_trailerMatches_flipBit s.cfg hi hj
  obtain ⟨x, y, acc, hdec⟩ := decodeRecord_of_not_trailerMatches hsize hbad t.crcAcc
  obtain ⟨u, hexec, hanswers⟩ := exec_decode_onlyAnswers hdec c'
  exact ⟨u, x, y, hexec, hanswers.answered.responses⟩

/-! ### The opcode convention (R71, R164) -/

/-- The writes are the opcodes with bit 7 clear (R71). -/
theorem and_0x80_eq_zero_iff (op : Byte) : op &&& 0x80#8 = 0#8 ↔ opClass op = .write := by
  have hmask : op &&& 0x80#8 = if op.getLsbD 7 then 0x80#8 else 0#8 := BitVec.and_twoPow op 7
  rw [hmask, opClass]
  cases op.getLsbD 7 with
  | false => simp
  | true => cases op.getLsbD 6 <;> simp

/-- Settles O11: an opcode is in its command's class (R136), and only GET_MASK_DATA's own opcode takes the composite's
length. -/
theorem opcodeConventionHolds : Obligations.OpcodeConventionHolds := by
  intro cfg cmd mask hw
  have hcls := Config.opClass_op hw cmd
  refine ⟨by rw [and_0x80_eq_zero_iff, hcls], fun hread hne => ?_⟩
  have hop : cfg.op cmd ≠ cfg.op .getMaskData := fun e => hne (Config.op_injective hw e)
  rw [respLen_of_svread (hcls.trans hread), if_neg hop]

end Sys2Proof.Machine

/-! ## The multiplexer's derived statements (42_mux.md): PARSE of what BUILD made (O19), and a change inside one record
(O21) -/

namespace Sys2Proof.Machine

/-! ### The places of the records (R58, R79) -/

section
variable {cfg : Config} {m : Byte}

/-- The kinds in canonical order are those before a kind, the kind, and those after it (R170). -/
theorem kinds_split (k : TKind) :
    ∃ before after, TKind.all.takeWhile (· != k) = before ∧ TKind.all = before ++ k :: after := by
  cases k <;> exact ⟨_, _, rfl, rfl⟩

theorem lenFrom_append (cfg : Config) (m : Byte) (l l' : List TKind) :
    lenFrom cfg m (l ++ l') = lenFrom cfg m l + lenFrom cfg m l' := by
  simp [lenFrom_eq_sum]

/-- The record of an enabled kind ends within the composite (R79, R177). -/
theorem offsetOf_add_size_le {k : TKind} (hk : enabled cfg m k = true) :
    offsetOf cfg m k + cfg.size k.toKind ≤ compositeLen cfg m := by
  obtain ⟨before, after, hbefore, hsplit⟩ := kinds_split k
  rw [offsetOf, hbefore, compositeLen, hsplit, lenFrom_append, lenFrom, if_pos hk]
  omega

/-- Of two kinds of a list, the record of one ends before the other's begins (R79). -/
theorem lenFrom_takeWhile_disjoint {a b : TKind} (hab : a ≠ b) (ha : enabled cfg m a = true)
    (hb : enabled cfg m b = true) {l : List TKind} (hla : a ∈ l) (hlb : b ∈ l) :
    lenFrom cfg m (l.takeWhile (· != a)) + cfg.size a.toKind ≤ lenFrom cfg m (l.takeWhile (· != b))
      ∨ lenFrom cfg m (l.takeWhile (· != b)) + cfg.size b.toKind ≤ lenFrom cfg m (l.takeWhile (· != a)) := by
  induction l with
  | nil => simp at hla
  | cons c cs ih =>
    by_cases hca : c = a
    · subst hca
      left
      simp [lenFrom, hab, ha]
    · by_cases hcb : c = b
      · subst hcb
        right
        simp [lenFrom, hca, hb]
      · have htail := ih (by simpa [Ne.symm hca] using hla) (by simpa [Ne.symm hcb] using hlb)
        simp only [List.takeWhile_cons, bne_iff_ne, ne_eq, hca, hcb, not_false_eq_true, if_true, lenFrom]
        omega

/-- The records of two enabled kinds do not overlap (R79). -/
theorem offsetOf_disjoint {a b : TKind} (hab : a ≠ b) (ha : enabled cfg m a = true) (hb : enabled cfg m b = true) :
    offsetOf cfg m a + cfg.size a.toKind ≤ offsetOf cfg m b
      ∨ offsetOf cfg m b + cfg.size b.toKind ≤ offsetOf cfg m a :=
  lenFrom_takeWhile_disjoint hab ha hb a.mem_all b.mem_all

/-- Byte strings that agree on a range give the same bytes there (R11). -/
theorem memRead_congr {d d' : List Byte} {o n : Nat} (h : ∀ i, o ≤ i → i < o + n → d[i]? = d'[i]?) :
    memRead d o n = memRead d' o n := by
  refine List.ext_getElem? fun i => ?_
  simp only [memRead, List.getElem?_take, List.getElem?_drop]
  split
  · exact h (o + i) (by omega) (by omega)
  · rfl

/-- A change inside the record of one kind leaves the bytes at every other kind's place (R182). -/
theorem recordSlice_congr {k c : TKind} {d d' : List Byte} (hck : c ≠ k) (hk : enabled cfg m k = true)
    (hc : enabled cfg m c = true)
    (h : ∀ i, i < offsetOf cfg m k ∨ offsetOf cfg m k + cfg.size k.toKind ≤ i → d[i]? = d'[i]?) :
    recordSlice cfg m c d = recordSlice cfg m c d' := by
  have hapart := offsetOf_disjoint hck hc hk
  exact memRead_congr fun i _ _ => h i (by omega)

end

/-! ### The slots of a whole composite (R181) -/

section
variable {cfg : Config} {m : Byte} {d : List Byte}

/-- The slot of a kind whose record fits: the record at its place if its trailer matches (R181). -/
def slotAt (cfg : Config) (m : Byte) (d : List Byte) (c : TKind) : Slot :=
  if trailerMatches cfg (recordSlice cfg m c d) then
    { kind := c, status := .ok, record := some (mkRecord c.toKind (recordSlice cfg m c d)) }
  else { kind := c, status := .checksumError, record := none }

@[simp] theorem slotAt_kind (cfg : Config) (m : Byte) (d : List Byte) (c : TKind) : (slotAt cfg m d c).kind = c := by
  unfold slotAt
  split <;> rfl

/-- What a slot of PARSE holds, said by its kind alone (R181). -/
theorem SlotHolds.eq_slotAt {x : Slot} (h : SlotHolds cfg d (offsetOf cfg m x.kind) x)
    (hfits : offsetOf cfg m x.kind + cfg.size x.kind.toKind ≤ d.length) : x = slotAt cfg m d x.kind := by
  obtain ⟨kind, status, record⟩ := x
  by_cases hmatch : trailerMatches cfg (recordSlice cfg m kind d)
  · obtain ⟨hstatus, hrecord⟩ := h.ok hfits hmatch
    dsimp only at hstatus hrecord
    rw [slotAt, if_pos hmatch, hstatus, hrecord]
    rfl
  · obtain ⟨rfl, rfl⟩ := h.bad hfits hmatch
    exact (if_neg hmatch).symm

/-- A list whose elements are determined by a key is the image of its keys. -/
theorem eq_map_of_forall_eq {α β : Type} {key : α → β} {f : β → α} {l : List α} {keys : List β}
    (hkeys : l.map key = keys) (h : ∀ x ∈ l, x = f (key x)) : l = keys.map f := by
  rw [← hkeys, List.map_map]
  exact (List.map_id' l).symm.trans (List.map_congr_left h)

/-- The slots of a composite of full length are those of the enabled kinds in canonical order, each decoded at its own
place (R181). -/
theorem parsed_slots_of_length_eq (h : d.length = compositeLen cfg m) (acc : Word) :
    (parsed cfg m acc d).slots = (TKind.all.filter (enabled cfg m)).map (slotAt cfg m d) := by
  obtain ⟨hkinds, hholds⟩ := parsed_slots cfg m acc d
  refine eq_map_of_forall_eq hkinds fun x hx => (hholds x hx).eq_slotAt ?_
  have henabled : enabled cfg m x.kind = true := (List.mem_filter.mp (hkinds ▸ List.mem_map_of_mem hx)).2
  exact h ▸ offsetOf_add_size_le henabled

/-- PARSE of bytes of the composite's length answers with the slot of each enabled kind (R181, R212). -/
theorem parseComposite_slots {acc : Word} {st : Status} {slots : List Slot} (h : d.length = compositeLen cfg m)
    (hparse : (parseComposite cfg m acc d).1 = ⟨st, .slots slots⟩) :
    slots = (TKind.all.filter (enabled cfg m)).map (slotAt cfg m d) := by
  rw [← parsed_slots_of_length_eq h acc]
  rw [parseComposite_eq] at hparse
  obtain ⟨hok, -⟩ | ⟨hbad, -⟩ := parseResponse_of_length_eq h acc
  · cases hok.symm.trans hparse
    rfl
  · cases hbad.symm.trans hparse
    rfl

/-- PARSE of bytes of the composite's length answers OK where every enabled kind's trailer matches (R181). -/
theorem parseComposite_ok (h : d.length = compositeLen cfg m)
    (hmatch : ∀ k, enabled cfg m k = true → trailerMatches cfg (recordSlice cfg m k d)) (acc : Word) :
    (parseComposite cfg m acc d).1 = ⟨.ok, .slots ((TKind.all.filter (enabled cfg m)).map (slotAt cfg m d))⟩ := by
  rw [parseComposite_eq, ← parsed_slots_of_length_eq h acc]
  obtain ⟨hok, -⟩ | ⟨-, x, hx, hbad⟩ := parseResponse_of_length_eq h acc
  · exact hok
  · rw [parsed_slots_of_length_eq h acc] at hx
    obtain ⟨k, hk, rfl⟩ := List.mem_map.mp hx
    rw [slotAt, if_pos (hmatch k (List.mem_filter.mp hk).2)] at hbad
    cases hbad

end

/-- Settles O21: the slots are those of the enabled kinds at their own places, and no other place overlaps the
record changed. -/
theorem checksumErrorIsolatedToItsRecord : Obligations.ChecksumErrorIsolatedToItsRecord := by
  intro cfg m k acc acc' d d' slots slots' st st' hk hd hd' hagree hparse hparse'
  rw [parseComposite_slots hd hparse, parseComposite_slots hd' hparse', List.filter_map, List.filter_map]
  have hsame : ∀ c ∈ (TKind.all.filter (enabled cfg m)).filter (· != k), slotAt cfg m d c = slotAt cfg m d' c := by
    intro c hc
    obtain ⟨hmem, hck⟩ := List.mem_filter.mp hc
    have hslice : recordSlice cfg m c d = recordSlice cfg m c d' :=
      recordSlice_congr (by simpa using hck) hk (List.mem_filter.mp hmem).2 hagree
    simp only [slotAt, hslice]
  simpa [Function.comp_def] using hsame

/-! ### PARSE of what BUILD made (R183) -/

section
variable {s : State} {m : Byte}

/-- The records of some of the kinds are as long as their sizes together (R177). -/
theorem flatMap_builtRecord_length (h : PayloadsFit s m) (l : List TKind) :
    ((l.filter (enabled s.cfg m)).flatMap (builtRecord s.cfg s.cnt s.inputs.src)).length = lenFrom s.cfg m l := by
  rw [List.length_flatMap, lenFrom_eq_sum]
  exact congrArg List.sum (List.map_congr_left fun k hk => builtRecord_length (h k (List.mem_filter.mp hk).2))

/-- BUILD's composite has the length of the mask (R177). -/
theorem builtComposite_length_eq_compositeLen (h : PayloadsFit s m) :
    (builtComposite s m).length = compositeLen s.cfg m :=
  flatMap_builtRecord_length h TKind.all

/-- At the place of an enabled kind, BUILD's composite has the kind's record (R79, R176). -/
theorem recordSlice_builtComposite (h : PayloadsFit s m) {k : TKind} (hk : enabled s.cfg m k = true) :
    recordSlice s.cfg m k (builtComposite s m) = builtRecord s.cfg s.cnt s.inputs.src k := by
  obtain ⟨before, after, hbefore, hsplit⟩ := kinds_split k
  have hparts : builtComposite s m
      = (before.filter (enabled s.cfg m)).flatMap (builtRecord s.cfg s.cnt s.inputs.src)
        ++ (builtRecord s.cfg s.cnt s.inputs.src k
          ++ (after.filter (enabled s.cfg m)).flatMap (builtRecord s.cfg s.cnt s.inputs.src)) := by
    rw [builtComposite, hsplit, List.filter_append, List.flatMap_append, List.filter_cons_of_pos hk, List.flatMap_cons]
  rw [hparts, recordSlice, offsetOf, hbefore, ← flatMap_builtRecord_length h,
    ← builtRecord_length (cnt := s.cnt) (h k hk)]
  exact memRead_append_mid _ _ _

/-- The slot of an enabled kind in BUILD's composite holds the record BUILD made (R183). -/
theorem slotAt_builtComposite (h : PayloadsFit s m) {k : TKind} (hk : enabled s.cfg m k = true) :
    slotAt s.cfg m (builtComposite s m) k
      = ⟨k, .ok, some (mkRecord k.toKind (builtRecord s.cfg s.cnt s.inputs.src k))⟩ := by
  rw [slotAt, recordSlice_builtComposite h hk]
  exact if_pos (trailerMatches_encodeRecord _ _)

/-- PARSE of BUILD's composite answers OK with the slots of the enabled kinds (R183). -/
theorem parseComposite_builtComposite (h : PayloadsFit s m) (acc : Word) :
    (parseComposite s.cfg m acc (builtComposite s m)).1
      = ⟨.ok, .slots ((TKind.all.filter (enabled s.cfg m)).map (slotAt s.cfg m (builtComposite s m)))⟩ := by
  refine parseComposite_ok (builtComposite_length_eq_compositeLen h) (fun k hk => ?_) acc
  rw [recordSlice_builtComposite h hk]
  exact trailerMatches_encodeRecord _ _

end

/-- Settles O19: BUILD's answer is the composite of payloads that fit, and each kind's record stands at its place. -/
theorem parseOfBuiltCompositeGivesItsRecords : Obligations.ParseOfBuiltCompositeGivesItsRecords := by
  intro c c' m s t out _ hbuild hr
  obtain ⟨hfit, rfl⟩ := build_answers_bytes hbuild hr
  obtain ⟨acc, hexec⟩ := exec_build_of_fit hfit c
  cases hexec.symm.trans hbuild
  refine ⟨_, (TKind.all.filter (enabled s.cfg m)).map (slotAt s.cfg m (builtComposite s m)), rfl,
    congrArg (fun r => (c', r) :: _) (parseComposite_builtComposite hfit acc), ?_⟩
  rw [List.map_map]
  refine List.map_congr_left fun k hk => ?_
  have htelemetry : (mkRecord k.toKind (builtRecord s.cfg s.cnt s.inputs.src k)).telemetry
      = some ⟨BitVec.ofNat 8 (s.cfg.kindBit k).val, s.counter k, s.inputs.src[k.idx]⟩ :=
    mkRecord_telemetryBody k _ _
  simp only [Function.comp_apply, slotAt_builtComposite hfit (List.mem_filter.mp hk).2, Option.bind_some, htelemetry]

end Sys2Proof.Machine

/-! ## The stops by name (logs 11 and 12): the transport's overrun, the phase 3, and a command out of its phase (O37) -/

namespace Sys2Proof.Machine

section
variable {s : State} {i : Instr} {cmd : Command}

/-- A write command runs its write phase, whatever its completion (R206). -/
theorem exec_of_write (hc : i.command = some cmd) (hw : cmd.cls = .write) (s : State) :
    ∃ tx done, exec i s = writeCommand s tx done := by
  cases i with
  | setDabP | setDabV | setTunerOptP | setTunerOptV | setProcOptP | setProcOptV | setTunerReg | setSerial
  | setPwsConfig | setMask | setDfuMode | setDfuBlock => exact ⟨_, _, rfl⟩
  | _ => cases hc <;> cases hw

/-- A write phase reported as longer than asked for is refused (R13, log 11). -/
theorem transmit_of_count_gt {tx : List Byte} (h : tx.length < s.inputs.txCount) (done : State → State) :
    transmit s tx done = .refused .transportOverrun :=
  if_pos h

/-- A read phase that delivers more bytes than asked for is refused (R13, log 11). -/
theorem receive_of_length_gt (h : s.seqCtx.n < s.inputs.rx.length) (result : State → List Byte → State) :
    receive s result = .refused .transportOverrun :=
  if_pos h

/-- A channel operation in the phase 3 faults (93 U23). -/
theorem whenIdle_of_reserved3 (hp : s.seqPhase = .reserved3) (go : State) :
    whenIdle s go = .fault .reservedPhase := by
  simp only [whenIdle, hp]

/-- A catalog command in the phase 3 faults (93 U23). -/
theorem exec_command_of_reserved3 (hc : i.command = some cmd) (hp : s.seqPhase = .reserved3) :
    exec i s = .fault .reservedPhase := by
  by_cases hw : cmd.cls = .write
  · obtain ⟨tx, done, hexec⟩ := exec_of_write hc hw s
    simp only [hexec, writeCommand, hp]
  · simp only [exec_of_read hc hw, readCommand, hp]

/-- A catalog command with no transaction in flight faults (log 12). -/
theorem exec_command_of_idle (hc : i.command = some cmd) (hp : s.seqPhase = .idle) :
    exec i s = .fault .wrongPhase := by
  by_cases hw : cmd.cls = .write
  · obtain ⟨tx, done, hexec⟩ := exec_of_write hc hw s
    simp only [hexec, writeCommand, hp]
  · simp only [exec_of_read hc hw, readCommand, hp]

/-- A write command in the phase READ faults (log 12). -/
theorem exec_write_of_read_phase (hc : i.command = some cmd) (hw : cmd.cls = .write) (hp : s.seqPhase = .read) :
    exec i s = .fault .wrongPhase := by
  obtain ⟨tx, done, hexec⟩ := exec_of_write hc hw s
  simp only [hexec, writeCommand, hp]

end

/-- Settles O37: a command is a write or a read command, whose phases name their stops. -/
theorem stopsAreNamed : Obligations.StopsAreNamed := by
  intro i cmd c l op tr d s hc
  refine ⟨fun hp hover => ?_, fun hr hp hover => ?_, fun hp => ?_, ?_⟩
  · obtain ⟨done, hexec⟩ := exec_of_write_phase hc hp
    exact hexec.trans (transmit_of_count_gt hover done)
  · rw [exec_of_read hc hr, readCommand_of_read hp, receive_of_length_gt hover]
  · exact ⟨exec_command_of_reserved3 hc hp, whenIdle_of_reserved3 hp _, whenIdle_of_reserved3 hp _,
      whenIdle_of_reserved3 hp _⟩
  · rintro (hp | ⟨hp, hw⟩)
    · exact exec_command_of_idle hc hp
    · exact exec_write_of_read_phase hc hw hp

end Sys2Proof.Machine
